-- ==== Sys2Proof/Word.lean ====
section
/-!
DEFINITION. The two word types of LAB2-CORE (spec 00_scope R6, R7, R9; 10_state R22; 40_numerics R110).

Everything that computes on them stands in `Sys2Proof/Machine/`.
-/
namespace Sys2Proof

/-- A 32-bit word: a packed pixel, an integer register, a command word (R6 `PIXW`, `INTW`, `DIMW`; R22). -/
abbrev Word := BitVec 32

/-- A binary64 value as its 64 raw bits (R110). `SIGMA`, `ACC_R/G/B` and every entry of `KBUF` hold one. -/
abbrev F64 := BitVec 64

end Sys2Proof
end

