-- ==== Sys2Proof/Config.lean ====
section
/-!
DEFINITION. What the spec leaves to an implementation, and the free values (spec 00_scope R6, R10; 40_numerics R111,
R114, R118, R126; 92_eei_decisions section 6).

Nothing in this file has a value a proof could see, but for the bound `KHALF_MAX >= 1` that R6 states.
-/
namespace Sys2Proof

/-- The three memories of the engine (R60). -/
inductive Space where
  | img
  | tmp
  | kbuf
  deriving DecidableEq, Repr

/-- The capacities of one instance (R6, R60; decision D12): `IMG` and `TMP` have `imgWords` words, `KBUF` has
`2 * khalfMax - 1` entries. They are parameters of the machine, "OPEN"; no step writes them. -/
structure Capacity where
  imgWords : Nat
  khalfMax : Nat
  deriving DecidableEq, Repr

/-- Number of entries of a memory space (R60). -/
def Capacity.entries (c : Capacity) : Space → Nat
  | .img => c.imgWords
  | .tmp => c.imgWords
  | .kbuf => 2 * c.khalfMax - 1

namespace Config

/-- `IMG_WORDS`: "any natural number" (R6, OPEN). -/
opaque imgWords : Nat

/-- `KHALF_MAX - 1`: `KHALF_MAX` is "any natural number of at least 1" (R6, OPEN). -/
opaque khalfExtra : Nat

/-- `KHALF_MAX` (R6). -/
def khalfMax : Nat := khalfExtra + 1

/-- The capacities of the machine that `State.reset` describes. -/
def capacity : Capacity := { imgWords := imgWords, khalfMax := khalfMax }

/-- Where, inside one transaction, an UNSPECIFIED value occurs (R10: "a model draws it afresh at each occurrence").
Two occurrences of one transaction have different sites; two transactions have different draw numbers. -/
inductive Site where
  /-- the contents of an entry that is UNSPECIFIED (R32, R35, R40, R72) -/
  | entry (sp : Space) (idx : Nat)
  /-- the word `pack` yields for entry `idx` of a pass's destination (R132, second line of R118) -/
  | packed (sp : Space) (idx : Nat)
  /-- `PIX` after a PACK with an out-of-range accumulator (R133) -/
  | pix
  /-- `HALFLEN`, discarded (R32, R166) or of a length that does not fit it -/
  | halflen
  /-- `KLEN`, discarded (R32, R166) or of a length that does not fit it -/
  | klen
  deriving DecidableEq, Repr

/-- `UNSPECIFIED(32)` (R10): the draw number of the transaction, and the site inside it. -/
opaque freeWord : Nat → Site → Word

/-- `UNSPECIFIED(64)` (R10). -/
opaque freeDouble : Nat → Site → F64

/-- The floating-point operations that can produce a NaN. -/
inductive FOp where
  | add
  | sub
  | mul
  | div
  | sqrt
  | ceil
  | floor
  deriving DecidableEq, Repr

/-- Sign and payload of a NaN an operation produces: UNSPECIFIED (R111, U4). By the transaction's draw number, the
operation and its operands (the second operand repeats the first where there is one operand). -/
opaque freeNaN : Nat → FOp → F64 → F64 → F64

/-- The open part of `of_int` at magnitudes of `2^53` or more: R9 and R115 give `of_int` below that only, while R143
applies it to `i * i`, which reaches it when `KHALF_MAX` admits a half-length above 94906266. Of the two binary64 values
that bracket the integer, which one is returned: the value at `lo` is the least magnitude at which an integer whose
bracket begins at `lo` is returned as the end farther from zero. DESIGN CHOICE (log entry 25): the choice is free, the
bracket keeps it inside the bounds of R119, R147 and R172. -/
opaque ofIntThreshold : F64 → Nat

/-- Sign and payload of `fexp(NaN)`; by R114 (a) a function of the operand alone. -/
opaque fexpNaN : F64 → F64

/-- `fexp` above zero: R114 requires nothing there, and no command applies it there. -/
opaque fexpPositive : F64 → F64

/-- The open part of `NUM.fexp` (R114, D19): of the two binary64 values that bracket `e^x`, which one is returned.
The value at `lo` is the least argument at which an `e^x` whose lower bracket is `lo` is returned rounded up; below it
`fexp` returns `lo`. A threshold for each bracket is exactly what R114 (a), (d) and (e) leave free; from -1250 down R148 takes
`+0.0` (log entry 7). -/
opaque fexpThreshold : F64 → F64

end Config

/-- The numerics and the two switches of the blur as one record (R126, R6). Every unit's function takes one as an
argument, so that a claim can be stated for other numerics or for another `TAP_BASE`; the machine uses
`Machine.num`. `truncI32` answers `none` on the UNSPECIFIED line of R118. -/
structure Numerics where
  fadd : F64 → F64 → F64
  fsub : F64 → F64 → F64
  fmul : F64 → F64 → F64
  fdiv : F64 → F64 → F64
  fsqrt : F64 → F64
  fexp : F64 → F64
  fceil : F64 → F64
  ffloor : F64 → F64
  ofInt : Int → F64
  truncI32 : F64 → Option Word
  /-- `PI` (R9) -/
  pi : F64
  /-- `ACC_ORDER`: the taps of a window of the given radius, in the order they are accumulated (R6, R154) -/
  accOrder : Nat → List Int
  /-- `TAP_BASE`: index of the kernel entry read for `k = -radius` (R6, R152) -/
  tapBase : Nat

end Sys2Proof
end

