-- ==== Sys2Proof/Syntax.lean ====
section
/-!
DEFINITION. What can be asked of LAB2-CORE: the nine commands (spec 30_encoding R93, opcode_table.json), the register
names (10_state R22) and the six host transactions (20_memory R70).
-/
namespace Sys2Proof

/-- The nine commands (R93). No command has an operand in its word (R91). -/
inductive Instr where
  | unpack
  | pack
  | kgen
  | fir1dH
  | fir1dV
  | hpass
  | vpass
  | blur
  | sharpen
  deriving DecidableEq, Repr

/-- The eighteen registers (R22), in the order of their numbers. -/
inductive Reg where
  | cmd
  | status
  | errcode
  | w
  | h
  | sigma
  | radius
  | halflen
  | klen
  | row
  | col
  | pix
  | chR
  | chG
  | chB
  | accR
  | accG
  | accB
  deriving DecidableEq, Repr

/-- A value that crosses the host interface: "`v` has the width of the register or entry" (R70). -/
inductive HostValue where
  | w32 (v : Word)
  | w64 (v : F64)
  deriving DecidableEq, Repr

/-- The six host transactions (R70). Register numbers and word indices are the host's own numbers, so that a number
that names nothing (R72) can be written down. -/
inductive HostOp where
  | writeReg (n : Nat) (v : HostValue)
  | readReg (n : Nat)
  | writeMem (sp : Space) (idx : Nat) (v : HostValue)
  | readMem (sp : Space) (idx : Nat)
  | reset
  | wait
  deriving DecidableEq, Repr

/-- The five error causes of a command (R190); code 0 is "none". -/
inductive CmdError where
  | invalidParameter
  | illegalCommand
  | geometry
  | kernelCapacity
  | operand
  deriving DecidableEq, Repr

end Sys2Proof
end

