-- ==== Sys2Proof/WellFormed.lean ====
section
/-!
DEFINITION. Well-formedness: of a command (R91: there is nothing in it to check), of a host transaction (20_memory R70,
R71, R72) and of a command word's reserved fields (30_encoding R90).
-/
namespace Sys2Proof

/-- Every command is well formed: it has no operand field (R91). -/
def Instr.wf : Instr → Bool
  | .unpack => true
  | .pack => true
  | .kgen => true
  | .fir1dH => true
  | .fir1dV => true
  | .hpass => true
  | .vpass => true
  | .blur => true
  | .sharpen => true

/-- A register number exists when it is 0 to 17 (R22, R72). -/
def regNumberWf (n : Nat) : Bool := decide (n < 18)

/-- Registers 5 and 15 to 17 are 64 bits wide, the others 32 (R22). -/
def regIs64 (n : Nat) : Bool := n == 5 || n == 15 || n == 16 || n == 17

/-- `KBUF` entries are 64 bits wide, `IMG` and `TMP` words 32 (R60). -/
def spaceIs64 : Space → Bool
  | .img => false
  | .tmp => false
  | .kbuf => true

/-- The width of a transaction's value: does it have 64 bits? -/
def HostValue.is64 : HostValue → Bool
  | .w32 _ => false
  | .w64 _ => true

/-- A transaction of R70 that R72 does not exclude: its register or entry exists and its value has the width of it. -/
def HostOp.wf (c : Capacity) : HostOp → Bool
  | .writeReg n v => regNumberWf n && v.is64 == regIs64 n
  | .readReg n => regNumberWf n
  | .writeMem sp idx v => decide (idx < c.entries sp) && v.is64 == spaceIs64 sp
  | .readMem sp idx => decide (idx < c.entries sp)
  | .reset => true
  | .wait => true

/-- `RSV`, bits 31:9, "must be zero"; `AXIS`, bit 8, "must be zero for every other opcode" than FIR1D (R90). -/
def cmdFieldsWf (c : Word) : Bool :=
  c.extractLsb' 9 23 == 0#23 && (c.extractLsb' 8 1 == 0#1 || c.extractLsb' 0 8 == 0x04#8)

end Sys2Proof
end

