-- ==== Sys2Proof/Decode.lean ====
section
/-!
DEFINITION. Decoding a command word and encoding a command (spec 30_encoding R90 to R97), and the host's numbering of a
word's bits.
-/
namespace Sys2Proof

/-- Why a command word is reserved (R96). All three end the command with IllegalCommand. -/
inductive Reserved where
  /-- a non-zero `RSV` field -/
  | rsv
  /-- `AXIS = 1` with an opcode other than FIR1D -/
  | axis
  /-- an opcode that is not assigned: `0x00`, or `0x09` to `0xFF` -/
  | opcode
  deriving DecidableEq, Repr

/-- Field `OP`, bits 7:0 (R90). -/
def opField (c : Word) : BitVec 8 := c.extractLsb' 0 8

/-- Field `AXIS`, bit 8 (R90). -/
def axisField (c : Word) : BitVec 1 := c.extractLsb' 8 1

/-- Field `RSV`, bits 31:9 (R90). -/
def rsvField (c : Word) : BitVec 23 := c.extractLsb' 9 23

/-- The decoder, total on all 32-bit words, by the fields of R90 and the opcode map of R93; every word it rejects is
reserved (R96), `0x00000000` among them (R97). -/
def decode (c : Word) : Except Reserved Instr :=
  if rsvField c ≠ 0#23 then .error .rsv
  else if axisField c = 1#1 then
    if opField c = 0x04#8 then .ok .fir1dV
    else if opField c ∈ [0x01#8, 0x02#8, 0x03#8, 0x05#8, 0x06#8, 0x07#8, 0x08#8] then .error .axis
    else .error .opcode
  else if opField c = 0x01#8 then .ok .unpack
  else if opField c = 0x02#8 then .ok .pack
  else if opField c = 0x03#8 then .ok .kgen
  else if opField c = 0x04#8 then .ok .fir1dH
  else if opField c = 0x05#8 then .ok .hpass
  else if opField c = 0x06#8 then .ok .vpass
  else if opField c = 0x07#8 then .ok .blur
  else if opField c = 0x08#8 then .ok .sharpen
  else .error .opcode

/-- A command word put together from its three fields (R90). -/
def cmdw (rsv : BitVec 23) (axis : BitVec 1) (op : BitVec 8) : Word := rsv ++ axis ++ op

/-- The command word of a command, from the `OP` and `AXIS` columns of R93. -/
def encode : Instr → Word
  | .unpack => cmdw 0 0 0x01
  | .pack => cmdw 0 0 0x02
  | .kgen => cmdw 0 0 0x03
  | .fir1dH => cmdw 0 0 0x04
  | .fir1dV => cmdw 0 1 0x04
  | .hpass => cmdw 0 0 0x05
  | .vpass => cmdw 0 0 0x06
  | .blur => cmdw 0 0 0x07
  | .sharpen => cmdw 0 0 0x08

/-- A table word: `nbits` bits of `w`, every bit above them zero. There is one format of one 32-bit word (R90, R103),
written whole to `CMD`; no byte order is involved (R64). -/
def tableWord (nbits w : Nat) : Word := BitVec.ofNat 32 (w % 2 ^ nbits)

/-- What the decoder reads from a table word. -/
def decodeTableWord (nbits w : Nat) : Option Instr :=
  match decode (tableWord nbits w) with
  | .ok i => some i
  | .error _ => none

end Sys2Proof
end

