-- ==== Sys2Proof/Machine/State.lean ====
section
/-!
DEFINITION. The state of one LAB2-CORE instance together with its host (spec 10_state R20 to R36, 20_memory R60), the
reasons a step stops, and the state after reset (R40, R220).
-/
namespace Sys2Proof.Machine

/-- No behaviour of LAB2-CORE is a fault of the model: the five coded errors are architected outcomes, that is next
states (R212), and no behaviour is `stuck` (93_implementation_defined, part 1). Nobody raises one; nothing is unsafe. -/
inductive Fault where
  deriving DecidableEq, Repr

/-- Why the model gives a step no meaning. -/
inductive Refusal where
  /-- raised by `exec` for a command without a meaning; safe. No arm raises it any more. -/
  | notModelled (mnemonic : String)
  /-- raised by a transaction other than a STATUS read, a reset or a wait while `STATUS.BUSY = 1`; "A model refuses
  such a run" (R226, U1); safe -/
  | busyEngine
  /-- raised by a transaction that names a register number of 18 or more; "A model should *refuse* such a transaction"
  (R72, U8); safe -/
  | noSuchRegister
  /-- raised by a transaction that names a memory index at or beyond the capacity (R72, U8); safe -/
  | noSuchEntry
  /-- raised by a write whose value has not "the width of the register or entry": R70 has no such transaction; safe -/
  | valueWidth
  deriving DecidableEq, Repr

/-- A word-indexed memory (R60) as the list of its defined entries, indices strictly rising. An index that is not
listed is UNSPECIFIED (R40, R41): no value is stored for it. -/
abbrev Memory (n : Nat) := List (Nat × BitVec n)

/-- The four fields of `STATUS` (R30). -/
inductive Flag where
  | busy
  | err
  | kvalid
  | tvalid
  deriving DecidableEq, Repr

/-- The eighteen registers (R22) and the three memories (R60), "and nothing else" (R21), followed by what the model
adds: the instance's capacities, the host's side, and the book-keeping of UNSPECIFIED values. -/
structure State where
  /-- register 0, the command word last written -/
  cmd : Word
  /-- register 1, R30 -/
  status : Word
  /-- register 2, R190 -/
  errcode : Word
  /-- register 3, image width in pixels -/
  w : Word
  /-- register 4, image height in pixels -/
  h : Word
  /-- register 5, the spread parameter -/
  sigma : F64
  /-- register 6, application radius of the primitives -/
  radius : Word
  /-- register 7, `half_length` of the kernel in `KBUF` -/
  halflen : Word
  /-- register 8, number of valid entries of `KBUF` -/
  klen : Word
  /-- register 9, row operand of FIR1D -/
  row : Word
  /-- register 10, column operand of FIR1D -/
  col : Word
  /-- register 11, packed pixel -/
  pix : Word
  /-- register 12, red channel -/
  chR : Word
  /-- register 13, green channel -/
  chG : Word
  /-- register 14, blue channel -/
  chB : Word
  /-- register 15, red accumulator -/
  accR : F64
  /-- register 16, green accumulator -/
  accG : F64
  /-- register 17, blue accumulator -/
  accB : F64
  /-- the image memory -/
  img : Memory 32
  /-- the scratch memory -/
  tmp : Memory 32
  /-- the kernel buffer -/
  kbuf : Memory 64
  /-- the model's own: the OPEN capacities of this instance (R6); no step writes them -/
  cap : Capacity
  /-- the model's own: `HALFLEN` and `KLEN` were discarded (R32, R35) since reset and since the last successful KGEN -/
  kernelDiscarded : Bool
  /-- the model's own: the number of transactions begun, which numbers the draws of UNSPECIFIED values (R10) -/
  draws : Nat
  /-- the host's: the transactions it is still going to perform, in order (R28, R75) -/
  host : List HostOp
  /-- the host's: what its latest read transaction returned, if it has performed one (R70) -/
  answer : Option HostValue
  deriving DecidableEq, Repr

/-- What a step answers. -/
abbrev Result := Host.Outcome State Fault Refusal

/-- The state after reset (R40, R220): all eighteen registers zero (`SIGMA` and `ACC_*` are `+0.0`), every entry of
the three memories UNSPECIFIED. The host has no transaction to perform: a program comes from outside. -/
def State.reset : State where
  cmd := 0
  status := 0
  errcode := 0
  w := 0
  h := 0
  sigma := 0
  radius := 0
  halflen := 0
  klen := 0
  row := 0
  col := 0
  pix := 0
  chR := 0
  chG := 0
  chB := 0
  accR := 0
  accG := 0
  accB := 0
  img := []
  tmp := []
  kbuf := []
  cap := Config.capacity
  kernelDiscarded := false
  draws := 0
  host := []
  answer := none

end Sys2Proof.Machine
end

