-- ==== Sys2Proof/Machine/Float.lean ====
section
/-!
DEFINITION. IEEE 754 binary64 arithmetic on raw 64-bit patterns (spec 40_numerics R110, R111, R115, R116).

Every finite binary64 value is an integer multiple of `2^-1074`. Operands are turned into that integer, results are
computed exactly on integers or fractions, and one function, `roundRat`, rounds to nearest, ties to even. An operation
that can produce a NaN takes the NaN it would produce as its first argument (R111: its sign and payload are open).
-/
namespace Sys2Proof.F64

/-- The number 1, in multiples of `2^-1074`. -/
def unit : Nat := 2 ^ 1074

/-- Bit 63 (R110). -/
def sign (a : F64) : Bool := a.getLsbD 63

/-- Bits 62:52, the biased exponent (R110). -/
def expField (a : F64) : Nat := a.toNat / 2 ^ 52 % 2 ^ 11

/-- Bits 51:0, the fraction (R110). -/
def fracField (a : F64) : Nat := a.toNat % 2 ^ 52

/-- `e = 2047, f != 0` (R110). -/
def isNaN (a : F64) : Bool := a.expField == 2047 && a.fracField != 0

/-- `e = 2047, f = 0` (R110). -/
def isInf (a : F64) : Bool := a.expField == 2047 && a.fracField == 0

/-- A number that is neither infinite nor NaN. -/
def isFinite (a : F64) : Bool := a.expField != 2047

/-- `e = 0, f = 0`: a zero of either sign (R110). -/
def isZero (a : F64) : Bool := a.expField == 0 && a.fracField == 0

/-- The magnitude of a finite value, in multiples of `2^-1074`: `f` for a subnormal,
`(1 + f * 2^-52) * 2^(e - 1023)` for a normal number (R110). -/
def mag (a : F64) : Nat :=
  if a.expField = 0 then a.fracField else (2 ^ 52 + a.fracField) * 2 ^ (a.expField - 1)

/-- The finite value itself, in multiples of `2^-1074`. -/
def signedMag (a : F64) : Int := if a.sign then -(a.mag : Int) else (a.mag : Int)

/-- Sign bit and the 63 bits below it, put together. -/
def ofSignBits (neg : Bool) (bits : Nat) : F64 := BitVec.ofNat 64 ((if neg then 2 ^ 63 else 0) + bits)

/-- The bits 62:0 of an infinity (R110). -/
def infBits : Nat := 2047 * 2 ^ 52

/-- An infinity of the given sign. -/
def inf (neg : Bool) : F64 := ofSignBits neg infBits

/-- `1.0`. -/
def one : F64 := 0x3FF0000000000000

/-- Binary search for the position of the highest set bit: `2^j` bits are tried at a time, from the largest `j` down. -/
def topBitFrom : Nat → Nat → Nat → Nat
  | 0, _, acc => acc
  | j + 1, n, acc =>
    if 2 ^ 2 ^ j ≤ n then topBitFrom j (n / 2 ^ 2 ^ j) (acc + 2 ^ j) else topBitFrom j n acc

/-- The position of the highest set bit of `n` (0 for 0), for every `n` below `2^8192`; no operation meets a larger
one. It is `Nat.log2` there, written so that the kernel evaluates it in 13 steps. -/
def topBit (n : Nat) : Nat := topBitFrom 13 n 0

/-- Bits 62:0 of the value `num / den * 2^-1074` rounded to nearest, ties to the even fraction, to an infinity on
overflow, gradually to zero (R111). `step` is the spacing of the binary64 values around the exact one, times `den`. -/
def roundRat (num den : Nat) : Nat :=
  let k := topBit (num / den) - 52
  let step := den * 2 ^ k
  let m := num / step
  let rest := num % step
  let up := decide (2 * rest > step) || (decide (2 * rest = step) && m % 2 == 1)
  min (k * 2 ^ 52 + (if up then m + 1 else m)) infBits

/-- Bits 62:0 of the greatest binary64 value that is not above `num / den * 2^-1074`. -/
def floorRat (num den : Nat) : Nat :=
  let k := topBit (num / den) - 52
  min (k * 2 ^ 52 + num / (den * 2 ^ k)) (infBits - 1)

/-- Makes a NaN of 64 bits about which nothing is known: sign and payload are theirs, and every NaN can result. -/
def nanOfBits (b : BitVec 64) : F64 :=
  let c : F64 := b ||| 0x7FF0000000000000
  if c.fracField = 0 then c ||| 0x0008000000000000 else c

/-- Flips the sign bit (R9). -/
def neg (a : F64) : F64 := a ^^^ 0x8000000000000000

/-- Addition (R111). An exact zero sum is `+0.0` unless both operands are negative zeros. -/
def add (nan : F64) (a b : F64) : F64 :=
  if a.isNaN || b.isNaN then nan
  else if a.isInf then if b.isInf && a.sign != b.sign then nan else a
  else if b.isInf then b
  else
    let z := a.signedMag + b.signedMag
    if z = 0 then ofSignBits (a.sign && b.sign) 0 else ofSignBits (decide (z < 0)) (roundRat z.natAbs 1)

/-- Subtraction (R111): addition of the negated second operand. -/
def sub (nan : F64) (a b : F64) : F64 := add nan a (neg b)

/-- Multiplication (R111). -/
def mul (nan : F64) (a b : F64) : F64 :=
  if a.isNaN || b.isNaN then nan
  else if a.isInf || b.isInf then
    if a.isZero || b.isZero then nan else inf (a.sign != b.sign)
  else ofSignBits (a.sign != b.sign) (roundRat (a.mag * b.mag) unit)

/-- Division (R111). -/
def div (nan : F64) (a b : F64) : F64 :=
  if a.isNaN || b.isNaN then nan
  else if a.isInf then if b.isInf then nan else inf (a.sign != b.sign)
  else if b.isInf then ofSignBits (a.sign != b.sign) 0
  else if b.isZero then if a.isZero then nan else inf (a.sign != b.sign)
  else ofSignBits (a.sign != b.sign) (roundRat (a.mag * unit) b.mag)

/-- The greatest `r` below `2^k` more than the given one with `r * r <= n`, bit by bit. -/
def isqrtFrom (n : Nat) : Nat → Nat → Nat
  | 0, r => r
  | k + 1, r =>
    let c := r + 2 ^ k
    isqrtFrom n k (if c * c ≤ n then c else r)

/-- Square root (R111). In multiples of `2^-1074` the root of `m` is the real root of `m * 2^1074`; it is bracketed by
`r * 2^j` and `(r + 1) * 2^j` with `r` of 60 bits or more, and an inexact one is handed to `roundRat` as the middle of
its bracket, which lies on the same side of every rounding boundary. -/
def sqrt (nan : F64) (a : F64) : F64 :=
  if a.isNaN then nan
  else if a.isZero then a
  else if a.sign then nan
  else if a.isInf then a
  else
    let n := a.mag * unit
    let j := topBit n / 2 - 60
    let r := isqrtFrom (n / 4 ^ j) 62 0
    let twice := if r * r * 4 ^ j = n then 2 * r else 2 * r + 1
    ofSignBits false (roundRat (twice * 2 ^ j) 2)

/-- The integer of a finite value, its fraction dropped (`t(x)` of R118). -/
def truncInt (a : F64) : Int :=
  let q : Nat := a.mag / unit
  if a.sign then -(q : Int) else (q : Int)

/-- `fceil` (R115). -/
def ceil (nan : F64) (a : F64) : F64 :=
  if a.isNaN then nan
  else if a.isInf then a
  else
    let q := a.mag / unit
    let z := if !a.sign && a.mag % unit != 0 then q + 1 else q
    ofSignBits a.sign (roundRat (z * unit) 1)

/-- `ffloor` (R115). -/
def floor (nan : F64) (a : F64) : F64 :=
  if a.isNaN then nan
  else if a.isInf then a
  else
    let q := a.mag / unit
    let z := if a.sign && a.mag % unit != 0 then q + 1 else q
    ofSignBits a.sign (roundRat (z * unit) 1)

/-- The greatest finite value. -/
def greatest : F64 := ofSignBits false (infBits - 1)

/-- Bits 62:0 of `of_int` of an integer of magnitude `n >= 2^53`, of which the spec states no result. DESIGN CHOICE (log
entry 25): `n` itself where it is a binary64 value, else one of the two neighbours that bracket it, the bracket's free
threshold deciding; an infinity above the greatest finite value. -/
def ofLargeNat (neg : Bool) (n : Nat) : Nat :=
  let lo := floorRat (n * unit) 1
  let low := ofSignBits neg lo
  if low.mag = n * unit ∨ lo + 1 < infBits ∧ n < Config.ofIntThreshold low then lo else lo + 1

/-- `of_int` (R9, R115): the value of an integer of magnitude below `2^53`, exactly; a larger one is `ofLargeNat`. -/
def ofInt (z : Int) : F64 :=
  ofSignBits (decide (z < 0))
    (if z.natAbs < 2 ^ 53 then roundRat (z.natAbs * unit) 1 else ofLargeNat (decide (z < 0)) z.natAbs)

/-- A position on the number line for every pattern but the NaNs: `-0.0` and `+0.0` share one (R116). -/
def orderKey (a : F64) : Int :=
  let m : Nat := a.toNat % 2 ^ 63
  if a.sign then -(m : Int) else (m : Int)

/-- `a < b`, false when an operand is NaN (R116). -/
def lt (a b : F64) : Bool := !a.isNaN && !b.isNaN && decide (a.orderKey < b.orderKey)

/-- `a <= b`, false when an operand is NaN (R116). -/
def le (a b : F64) : Bool := !a.isNaN && !b.isNaN && decide (a.orderKey ≤ b.orderKey)

end Sys2Proof.F64
end

