-- ==== Sys2Proof/Machine/Exp.lean ====
section
/-!
DEFINITION. `NUM.fexp` (spec 40_numerics R114, decision D19): on a finite `x < 0` one of the two binary64 values that
bracket the real `e^x`. The bracket is computed; which of the two is returned is open (`Config.fexpThreshold`), but where
the exponential underflows to zero (R148).
-/
namespace Sys2Proof.Machine

/-- Fixed-point scale of the computation: a number `v` is held as `v * 2^320`. -/
def expScale : Nat := 2 ^ 320

/-- The terms `r^(n+1)/(n+1)!`, `r^(n+2)/(n+2)!`, ... of the exponential series added to `sum`, each rounded down and
`c` added: `c = 0` gives a lower bound of the partial sum, `c = 1` an upper one. -/
def expSeries (c r : Nat) : Nat → Nat → Nat → Nat → Nat
  | 0, _, _, sum => sum
  | fuel + 1, n, term, sum =>
    let next := term * r / (expScale * (n + 1)) + c
    expSeries c r fuel (n + 1) next (sum + next)

/-- `k` squarings of a fixed-point number, each rounded down and `c` added. -/
def squarings (c : Nat) : Nat → Nat → Nat
  | 0, x => x
  | k + 1, x => squarings c k (x * x / expScale + c)

/-- A fixed-point number at most `e^y`, where `r * 2^20` is at most `y`. -/
def expLower (r : Nat) : Nat := squarings 0 20 (expSeries 0 r 30 0 expScale expScale)

/-- A fixed-point number at least `e^y`, where `r * 2^20` is at least `y` and `r` is small: the 31 terms and one unit
for the rest of the series. -/
def expUpper (r : Nat) : Nat := squarings 1 20 (expSeries 1 r 30 0 expScale expScale + 1)

/-- `e^-y` "underflows to zero" for `y = m * 2^-1074`, as 42_gaussian_kernel_gen R148 and 95_test_vectors V-K5 state for
sigma up to about 0.02: from 1250 on, the argument of sigma 0.02 (log entry 7). -/
def expUnderflows (m : Nat) : Bool := decide (1250 * F64.unit ≤ m)

/-- The bits 62:0 of the two binary64 values that bracket `e^-y`, for `y = m * 2^-1074 > 0`. From 746 on the power lies
between 0 and the least subnormal; below `2^-60` between `1 - 2^-53` and 1; in between both come from bounds that agree
to far more than 53 bits. Were a binary64 value to lie between those bounds, it alone would be returned. -/
def expBracket (m : Nat) : Nat × Nat :=
  if 746 * F64.unit ≤ m then (0, 1)
  else if m * 2 ^ 60 < F64.unit then (F64.one.toNat - 1, F64.one.toNat)
  else
    let r := m * expScale / (F64.unit * 2 ^ 20)
    let low := F64.floorRat (expScale * F64.unit) (expUpper (r + 1))
    let high := F64.floorRat (expScale * F64.unit) (expLower r)
    if low = high then (low, min (low + 1) F64.one.toNat) else (high, high)

/-- `NUM.fexp` (R114): exact at zero, `+0.0` at `-inf`, a NaN at a NaN, one of the bracketing values below zero, the
upper one exactly from the bracket's threshold on; of these `+0.0` where the exponential underflows to zero (R148). -/
def fexp (x : F64) : F64 :=
  if x.isNaN then F64.nanOfBits (Config.fexpNaN x)
  else if x.isZero then F64.one
  else if !x.sign then Config.fexpPositive x
  else if x.isInf || expUnderflows x.mag then 0
  else
    let b := expBracket x.mag
    let low : F64 := F64.ofSignBits false b.1
    if F64.le (Config.fexpThreshold low) x then F64.ofSignBits false b.2 else low

end Sys2Proof.Machine
end

