-- ==== Sys2Proof/Machine/Numerics.lean ====
section
/-!
DEFINITION. The record `NUM` with the values the spec takes for LAB2-CORE (spec 40_numerics R126, R110 to R118), the
sigma test (R117) and the two derived integers of a blur (R124, R125).
-/
namespace Sys2Proof.Machine

/-- The NaN an operation produces in transaction `d` (R111). -/
def producedNaN (d : Nat) (op : Config.FOp) (a b : F64) : F64 := F64.nanOfBits (Config.freeNaN d op a b)

/-- `trunc_i32` (R118): truncation toward zero to a 32-bit two's complement word; `none` on the UNSPECIFIED line. -/
def truncI32 (x : F64) : Option Word :=
  if x.isFinite then
    let t := x.truncInt
    if -(2 ^ 31) ≤ t ∧ t ≤ 2 ^ 31 - 1 then some (BitVec.ofInt 32 t) else none
  else none

/-- `ACC_ORDER` (R154): the taps in ascending `k`, from `-radius` to `+radius`. -/
def ascendingTaps (radius : Nat) : List Int := (List.range (2 * radius + 1)).map fun (n : Nat) => (n : Int) - radius

/-- The numerics of LAB2-CORE (R126) in transaction `d`; `d` matters to the bits of produced NaNs alone. -/
def num (d : Nat) : Numerics where
  fadd a b := F64.add (producedNaN d .add a b) a b
  fsub a b := F64.sub (producedNaN d .sub a b) a b
  fmul a b := F64.mul (producedNaN d .mul a b) a b
  fdiv a b := F64.div (producedNaN d .div a b) a b
  fsqrt a := F64.sqrt (producedNaN d .sqrt a a) a
  fexp := fexp
  fceil a := F64.ceil (producedNaN d .ceil a a) a
  ffloor a := F64.floor (producedNaN d .floor a a) a
  ofInt := F64.ofInt
  truncI32 := truncI32
  pi := 0x400921FB54442D18
  accOrder := ascendingTaps
  tapBase := 0

/-- `TWO_PI = fmul(2.0, PI)` (R9). -/
def twoPi (N : Numerics) : F64 := N.fmul (N.ofInt 2) N.pi

/-- `valid_sigma` (R117): not NaN, not infinite, greater than zero. -/
def validSigma (s : F64) : Bool := !s.isNaN && !s.isInf && F64.lt 0 s

/-- `hf = fceil(fadd(fmul(5.0, s), 1.0))` (R124). -/
def halfLengthF (N : Numerics) (s : F64) : F64 := N.fceil (N.fadd (N.fmul (N.ofInt 5) s) (N.ofInt 1))

/-- `to_int` of a non-negative integral finite value (R115). -/
def toNat (a : F64) : Nat := a.truncInt.toNat

/-- `half_length` (R124). -/
def halfLength (N : Numerics) (s : F64) : Nat := toNat (halfLengthF N s)

/-- `hf > KHALF_MAX`, "includes hf = +inf" (R149, R194), compared as integers. -/
def exceedsKernelCapacity (N : Numerics) (s : F64) (khalfMax : Nat) : Bool :=
  let hf := halfLengthF N s
  !hf.isFinite || decide (khalfMax < toNat hf)

/-- `blur_radius` (R125). -/
def blurRadius (N : Numerics) (s : F64) : Nat := 3 * toNat (N.ffloor s)

end Sys2Proof.Machine
end

