-- ==== Sys2Proof/Machine/Flags.lean ====
section
/-!
DEFINITION. The four fields of `STATUS` (spec 10_state R30) and the error codes (60_exceptions R190). There is no other
flag: no carry, overflow, zero, sign or floating-point exception flag is kept anywhere (R30, R112).
-/
namespace Sys2Proof.Machine

/-- Bit position of a field of `STATUS` (R30). -/
def Flag.bit : Flag → Nat
  | .busy => 0
  | .err => 1
  | .kvalid => 2
  | .tvalid => 3

/-- A field of a `STATUS` word. -/
def statusFlag (st : Word) (f : Flag) : Bool := st.getLsbD f.bit

/-- A `STATUS` word with one field written and every other bit kept. -/
def setStatusFlag (st : Word) (f : Flag) (v : Bool) : Word :=
  if v then st ||| 1#32 <<< f.bit else st &&& ~~~(1#32 <<< f.bit)

/-- `STATUS.F` (R10). -/
def State.flag (s : State) (f : Flag) : Bool := statusFlag s.status f

/-- `STATUS.F <- v`. -/
def State.setFlag (s : State) (f : Flag) (v : Bool) : State := { s with status := setStatusFlag s.status f v }

/-- What a read of `STATUS` returns: "Bits 31:4 read as zero" (R30). -/
def statusReads (st : Word) : Word := st &&& 0xF#32

/-- The code an error records in `ERRCODE` (R190). -/
def errorCode : CmdError → Word
  | .invalidParameter => 1
  | .illegalCommand => 2
  | .geometry => 3
  | .kernelCapacity => 4
  | .operand => 5

end Sys2Proof.Machine
end

