-- ==== Sys2Proof/Machine/Ops.lean ====
section
/-!
DEFINITION. The named operations on memories (spec 20_memory R60, R66), the start and the two ends of a command
(30_encoding R92, 60_exceptions R196, R202), and reset (70_reset_and_hazards R220, R221).
-/
namespace Sys2Proof.Machine

/-- The canonical form of a memory: its defined entries at strictly rising indices. -/
def Memory.wf {n : Nat} (m : Memory n) : Bool := decide (List.Pairwise (fun a b => a.1 < b.1) m)

/-- Every listed index is below a capacity (R60). -/
def Memory.within {n : Nat} (m : Memory n) (entries : Nat) : Bool := m.all fun e => decide (e.1 < entries)

/-- The entry at an index, `none` when it is UNSPECIFIED. -/
def Memory.read {n : Nat} : Memory n → Nat → Option (BitVec n)
  | [], _ => none
  | (a, v) :: m, i => if a = i then some v else Memory.read m i

/-- `MemWrite` of one entry (R10). -/
def Memory.write {n : Nat} : Memory n → Nat → BitVec n → Memory n
  | [], i, v => [(i, v)]
  | (a, x) :: m, i, v =>
    if i < a then (i, v) :: (a, x) :: m
    else if i = a then (i, v) :: m
    else (a, x) :: Memory.write m i v

/-- Values as the entries at consecutive indices. -/
def numbered {n : Nat} : Nat → List (BitVec n) → Memory n
  | _, [] => []
  | i, v :: vs => (i, v) :: numbered (i + 1) vs

/-- `MemWrite` of the entries `0 .. vs.length - 1`, which is how every command writes a memory (R141, R161, R163,
R166, R181); the entries above are kept. -/
def Memory.writePrefix {n : Nat} (m : Memory n) (vs : List (BitVec n)) : Memory n :=
  numbered 0 vs ++ m.filter fun e => decide (vs.length ≤ e.1)

/-- What a scratch memory still holds for an observer: its entries while its validity flag is 1, nothing once the flag
is 0, for then they are UNSPECIFIED "to every later observer" (R32, R196; log entry 26). The entries themselves stay
stored, for clearing the flag wrote none of them (R196); a host read sees nothing of them, and what next validates the
memory starts from nothing. -/
def Memory.observed {n : Nat} (valid : Bool) (m : Memory n) : Memory n := if valid then m else []

/-- Every index below `k` is defined. -/
def Memory.definedBelow {n : Nat} (m : Memory n) (k : Nat) : Bool :=
  (List.range k).all fun i => (Memory.read m i).isSome

/-- The start of a command (R92, R31): `x[CMD] <- c; BUSY <- 1; ERR <- 0; x[ERRCODE] <- 0`. This is also all there is
of a return from an earlier error (R202). -/
def issueCommand (c : Word) (s : State) : State :=
  { ({ s with cmd := c }.setFlag .busy true).setFlag .err false with errcode := 0 }

/-- The end of a command without error (R92): `BUSY <- 0`. -/
def endCommand (s : State) : State := s.setFlag .busy false

/-- `raise E()` (R196): `x[ERRCODE] <- code(E); ERR <- 1; BUSY <- 0`, and nothing else; the command ends. -/
def raiseError (e : CmdError) (s : State) : State :=
  ({ s with errcode := errorCode e }.setFlag .err true).setFlag .busy false

/-- `KVALID <- 0`: the kernel is discarded, `HALFLEN` and `KLEN` with it (R32, R35). No later observer sees an entry of
`KBUF` that was there: `Memory.observed`. -/
def discardKernel (s : State) : State := { s.setFlag .kvalid false with kernelDiscarded := true }

/-- `TVALID <- 0`: the intermediate image is discarded (R32, R35); see `Memory.observed`. -/
def discardTmp (s : State) : State := s.setFlag .tvalid false

/-- `HostReset()` (R220), and the reset of a busy engine (R221), which differs in nothing: every register to its value
after reset, every entry of the three memories UNSPECIFIED. The host's side and the draw number go on. -/
def hostReset (s : State) : State :=
  { State.reset with cap := s.cap, draws := s.draws, host := s.host, answer := s.answer }

end Sys2Proof.Machine
end

