-- ==== Sys2Proof/Machine/Operands.lean ====
section
/-!
DEFINITION. The operand forms (spec 10_state R22 to R27, 20_memory R62, R70; 40_numerics R122; 43_fir_convolver_1d
R151): the register file by number, the entries of the three memories, row-major pixel indices, edge replication.
-/
namespace Sys2Proof.Machine

/-- The register of a number; "Register numbers 18 and above do not exist" (R22). -/
def regOfNumber : Nat → Option Reg
  | 0 => some .cmd
  | 1 => some .status
  | 2 => some .errcode
  | 3 => some .w
  | 4 => some .h
  | 5 => some .sigma
  | 6 => some .radius
  | 7 => some .halflen
  | 8 => some .klen
  | 9 => some .row
  | 10 => some .col
  | 11 => some .pix
  | 12 => some .chR
  | 13 => some .chG
  | 14 => some .chB
  | 15 => some .accR
  | 16 => some .accG
  | 17 => some .accB
  | _ => none

/-- What a host read of a register returns (R22, R70). `STATUS` bits 31:4 read as zero (R30); a discarded `HALFLEN` or
`KLEN` is UNSPECIFIED "to every later observer" (R32, R196). -/
def readRegister (s : State) : Reg → HostValue
  | .cmd => .w32 s.cmd
  | .status => .w32 (statusReads s.status)
  | .errcode => .w32 s.errcode
  | .w => .w32 s.w
  | .h => .w32 s.h
  | .sigma => .w64 s.sigma
  | .radius => .w32 s.radius
  | .halflen => .w32 (if s.kernelDiscarded then Config.freeWord s.draws .halflen else s.halflen)
  | .klen => .w32 (if s.kernelDiscarded then Config.freeWord s.draws .klen else s.klen)
  | .row => .w32 s.row
  | .col => .w32 s.col
  | .pix => .w32 s.pix
  | .chR => .w32 s.chR
  | .chG => .w32 s.chG
  | .chB => .w32 s.chB
  | .accR => .w64 s.accR
  | .accG => .w64 s.accG
  | .accB => .w64 s.accB

/-- A host write of a register other than `CMD`: read-only registers ignore it, a write of `W` or `H` also clears
`TVALID` (R22, R32, R70). `none`: the value has not the register's width. (`CMD` is not written here: a write of it
issues a command.) -/
def writeRegister (s : State) : Reg → HostValue → Option State
  | .cmd, .w32 _ => some s
  | .status, .w32 _ => some s
  | .errcode, .w32 _ => some s
  | .w, .w32 v => some (discardTmp { s with w := v })
  | .h, .w32 v => some (discardTmp { s with h := v })
  | .sigma, .w64 v => some { s with sigma := v }
  | .radius, .w32 v => some { s with radius := v }
  | .halflen, .w32 _ => some s
  | .klen, .w32 _ => some s
  | .row, .w32 v => some { s with row := v }
  | .col, .w32 v => some { s with col := v }
  | .pix, .w32 v => some { s with pix := v }
  | .chR, .w32 v => some { s with chR := v }
  | .chG, .w32 v => some { s with chG := v }
  | .chB, .w32 v => some { s with chB := v }
  | .accR, .w64 v => some { s with accR := v }
  | .accG, .w64 v => some { s with accG := v }
  | .accB, .w64 v => some { s with accB := v }
  | _, _ => none

/-- `MemRead(IMG:n, 32)`: an undefined word is UNSPECIFIED (R41, R223). -/
def imgWord (s : State) (n : Nat) : Word := (Memory.read s.img n).getD (Config.freeWord s.draws (.entry .img n))

/-- `MemRead(TMP:n, 32)`. -/
def tmpWord (s : State) (n : Nat) : Word := (Memory.read s.tmp n).getD (Config.freeWord s.draws (.entry .tmp n))

/-- `MemRead(KBUF:n, 64)`. -/
def kernelEntry (s : State) (n : Nat) : F64 :=
  (Memory.read s.kbuf n).getD (Config.freeDouble s.draws (.entry .kbuf n))

/-- Row-major index of the pixel at row `i`, column `j` (R11, R62). -/
def pixelIndex (w i j : Nat) : Nat := i * w + j

/-- `clamp(x, lo, hi)` (R8). -/
def clamp (x lo hi : Int) : Int := if x < lo then lo else if hi < x then hi else x

/-- The sample a tap reads on a line of `n` pixels: `q = clamp(p + k, 0, n - 1)` (R151). -/
def sampleIndex (n p : Nat) (k : Int) : Nat := (clamp ((p : Int) + k) 0 ((n : Int) - 1)).toNat

/-- `x[W] * x[H]`, formed without wrap-around (R23, R193). -/
def pixelCount (s : State) : Nat := s.w.toNat * s.h.toNat

/-- The condition of GeometryError: `x[W] * x[H] > IMG_WORDS` (R193). -/
def geometryExceeds (s : State) : Bool := decide (s.cap.imgWords < pixelCount s)

/-- The window condition of OperandError: `TAP_BASE + 2 * x[RADIUS] + 1 > x[KLEN]` (R195). -/
def windowExceeds (N : Numerics) (s : State) : Bool := decide (s.klen.toNat < N.tapBase + 2 * s.radius.toNat + 1)

/-- `x[ROW] >= x[H]` or `x[COL] >= x[W]` (R195). -/
def positionOutside (s : State) : Bool := decide (s.h.toNat ≤ s.row.toNat) || decide (s.w.toNat ≤ s.col.toNat)

end Sys2Proof.Machine
end

