-- ==== Sys2Proof/Machine/Codec.lean ====
section
/-!
DEFINITION. channel_pack_unpack (spec 41_channel_pack_unpack): the functions `unpack` and `pack` and the commands
UNPACK and PACK.
-/
namespace Sys2Proof.Machine

/-- One value for each of the three channels (R136). -/
structure Rgb (α : Type) where
  r : α
  g : α
  b : α
  deriving DecidableEq, Repr

/-- `unpack` (R130): `(p >> 16) & 0xFF`, `(p >> 8) & 0xFF`, `p & 0xFF`. -/
def unpack (p : Word) : Rgb Word where
  r := p >>> 16 &&& 0xFF#32
  g := p >>> 8 &&& 0xFF#32
  b := p &&& 0xFF#32

/-- The three words of truncated channels shifted into place and ORed, without a clamp (R132, R134). -/
def packInts (c : Rgb Word) : Word := c.r <<< 16 ||| c.g <<< 8 ||| c.b

/-- `pack` (R132); `none` when one of the conversions is on the UNSPECIFIED line of R118, for then "the whole result is
`UNSPECIFIED(32)`". -/
def pack (N : Numerics) (c : Rgb F64) : Option Word :=
  match N.truncI32 c.r, N.truncI32 c.g, N.truncI32 c.b with
  | some r, some g, some b => some (packInts ⟨r, g, b⟩)
  | _, _, _ => none

/-- `pack` with its UNSPECIFIED result drawn: transaction `d`, occurrence `site` (R10). -/
def packOrDraw (N : Numerics) (d : Nat) (site : Config.Site) (c : Rgb F64) : Word :=
  (pack N c).getD (Config.freeWord d site)

/-- UNPACK (R131). -/
def execUnpack (s : State) : Result :=
  let c := unpack s.pix
  .next (endCommand { s with chR := c.r, chG := c.g, chB := c.b })

/-- PACK (R133). -/
def execPack (s : State) : Result :=
  .next (endCommand { s with pix := packOrDraw (num s.draws) s.draws .pix ⟨s.accR, s.accG, s.accB⟩ })

end Sys2Proof.Machine
end

