-- ==== Sys2Proof/Machine/Kernel.lean ====
section
/-!
DEFINITION. gaussian_kernel_gen (spec 42_gaussian_kernel_gen): the function `generate` and the command KGEN.
-/
namespace Sys2Proof.Machine

/-- `norm = 1 / sqrt(2 * pi * sigma^2)`, in the order of R143. -/
def kernelNorm (N : Numerics) (s : F64) : F64 := N.fdiv (N.ofInt 1) (N.fsqrt (N.fmul (twoPi N) (N.fmul s s)))

/-- `of_int(i*i)` as R143 divides it by `two_s2`. Where both would be infinite, which needs `i*i` above the greatest
finite value, the spec states no `of_int`, and R119, R147 (b) and R172 keep the weight from being a NaN: the operand is
finite there. Every finite value gives the same quotient `-0.0` (log entry 25). -/
def squaredIndex (N : Numerics) (twoS2 : F64) (i : Nat) : F64 :=
  let z := N.ofInt ((i * i : Nat) : Int)
  if z.isInf && twoS2.isInf then F64.greatest else z

/-- `temp[i]`, the half-profile (R143). -/
def halfProfile (N : Numerics) (s : F64) (i : Nat) : F64 :=
  let twoS2 := N.fmul (N.ofInt 2) (N.fmul s s)
  N.fmul (kernelNorm N s) (N.fexp (N.fdiv (F64.neg (squaredIndex N twoS2 i)) twoS2))

/-- `generate` (R140, R144): the reversed half-profile without the centre, then the half-profile; `2 * hl - 1` entries,
lowest offset first. -/
def generate (N : Numerics) (s : F64) : List F64 :=
  let temp := (List.range (halfLength N s)).map (halfProfile N s)
  temp.tail.reverse ++ temp

/-- A length stored in a 32-bit register (R22). The spec states no result for one of `2^32` or more, which only a
`KHALF_MAX` above `2^31` admits: the register then holds a free value. -/
def lengthWord (d : Nat) (site : Config.Site) (n : Nat) : Word :=
  if n < 2 ^ 32 then BitVec.ofNat 32 n else Config.freeWord d site

/-- KGEN (R141). Entries at `KLEN` and above are not written; they hold on while `KVALID` was 1, and are UNSPECIFIED when
they were discarded before (R32). -/
def execKgen (s : State) : Result :=
  let N := num s.draws
  if !validSigma s.sigma then .next (raiseError .invalidParameter (discardKernel s))
  else if exceedsKernelCapacity N s.sigma s.cap.khalfMax then .next (raiseError .kernelCapacity (discardKernel s))
  else
    let hl := halfLength N s.sigma
    .next (endCommand ({ s with
      kbuf := Memory.writePrefix (Memory.observed (s.flag .kvalid) s.kbuf) (generate N s.sigma)
      halflen := lengthWord s.draws .halflen hl
      klen := lengthWord s.draws .klen (2 * hl - 1)
      kernelDiscarded := false }.setFlag .kvalid true))

end Sys2Proof.Machine
end

