-- ==== Sys2Proof/Machine/Fir.lean ====
section
/-!
DEFINITION. fir_convolver_1d (spec 43_fir_convolver_1d): the function `Fir1D` and the commands FIR1D.H and FIR1D.V.
-/
namespace Sys2Proof.Machine

/-- One tap of `Fir1D` (R153): a rounded product, then a rounded sum, for each channel; no fused operation (R113). -/
def firTap (N : Numerics) (line : Nat → Word) (n p radius : Nat) (K : Nat → F64) (acc : Rgb F64) (k : Int) : Rgb F64 :=
  let c := unpack (line (sampleIndex n p k))
  let w := K (k + radius + N.tapBase).toNat
  { r := N.fadd acc.r (N.fmul w (N.ofInt c.r.toNat))
    g := N.fadd acc.g (N.fmul w (N.ofInt c.g.toNat))
    b := N.fadd acc.b (N.fmul w (N.ofInt c.b.toNat)) }

/-- `Fir1D(line, n, p, radius, K)` (R150, R153): the taps in the order `ACC_ORDER`, from `+0.0`. -/
def fir1D (N : Numerics) (line : Nat → Word) (n p radius : Nat) (K : Nat → F64) : Rgb F64 :=
  (N.accOrder radius).foldl (firTap N line n p radius K) ⟨0, 0, 0⟩

/-- The horizontal window of the pixel at row `i`, column `j` of an image of width `w` (R155). -/
def rowWindow (N : Numerics) (px : Nat → Word) (w radius : Nat) (K : Nat → F64) (i j : Nat) : Rgb F64 :=
  fir1D N (fun q => px (pixelIndex w i q)) w j radius K

/-- The vertical window of the pixel at row `i`, column `j` of an image of `w * h` pixels (R156). -/
def columnWindow (N : Numerics) (px : Nat → Word) (w h radius : Nat) (K : Nat → F64) (i j : Nat) : Rgb F64 :=
  fir1D N (fun q => px (pixelIndex w q j)) h i radius K

/-- The three accumulators written. -/
def setAccumulators (c : Rgb F64) (s : State) : State := { s with accR := c.r, accG := c.g, accB := c.b }

/-- FIR1D.H (R155). -/
def execFir1dH (s : State) : Result :=
  let N := num s.draws
  if geometryExceeds s then .next (raiseError .geometry s)
  else if !s.flag .kvalid || positionOutside s || windowExceeds N s then .next (raiseError .operand s)
  else .next (endCommand (setAccumulators
    (rowWindow N (imgWord s) s.w.toNat s.radius.toNat (kernelEntry s) s.row.toNat s.col.toNat) s))

/-- FIR1D.V (R156). -/
def execFir1dV (s : State) : Result :=
  let N := num s.draws
  if geometryExceeds s then .next (raiseError .geometry s)
  else if !s.flag .kvalid || !s.flag .tvalid || positionOutside s || windowExceeds N s then
    .next (raiseError .operand s)
  else .next (endCommand (setAccumulators
    (columnWindow N (tmpWord s) s.w.toNat s.h.toNat s.radius.toNat (kernelEntry s) s.row.toNat s.col.toNat) s))

end Sys2Proof.Machine
end

