-- ==== Sys2Proof/Machine/Blur.lean ====
section
/-!
DEFINITION. separable_fir_blur_pass (spec 44_separable_fir_blur_pass): the horizontal and the vertical pass and the
commands HPASS, VPASS and BLUR.
-/
namespace Sys2Proof.Machine

/-- The horizontal pass (R161): the packed window sum of every pixel, row-major. Word `n` is the pixel at row `n / w`,
column `n % w`; the order of the visits cannot be observed (R77 (c), D43). -/
def horizontalPass (N : Numerics) (d : Nat) (px : Nat → Word) (w h radius : Nat) (K : Nat → F64) : List Word :=
  (List.range (w * h)).map fun n => packOrDraw N d (.packed .tmp n) (rowWindow N px w radius K (n / w) (n % w))

/-- The vertical pass (R163). -/
def verticalPass (N : Numerics) (d : Nat) (px : Nat → Word) (w h radius : Nat) (K : Nat → F64) : List Word :=
  (List.range (w * h)).map fun n => packOrDraw N d (.packed .img n) (columnWindow N px w h radius K (n / w) (n % w))

/-- Both passes (R166): the vertical one reads the words the horizontal one packed (R162), from a buffer of its own. -/
def blurWords (N : Numerics) (d : Nat) (px : Nat → Word) (w h radius : Nat) (K : Nat → F64) : List Word :=
  let t := horizontalPass N d px w h radius K
  verticalPass N d (fun n => t.getD n 0) w h radius K

/-- HPASS (R161). Words of `TMP` at `W * H` and above are not written; they are UNSPECIFIED when they were discarded
before (R32). -/
def execHpass (s : State) : Result :=
  let N := num s.draws
  if geometryExceeds s then .next (raiseError .geometry (discardTmp s))
  else if !s.flag .kvalid || windowExceeds N s then .next (raiseError .operand (discardTmp s))
  else .next (endCommand ({ s with
    tmp := Memory.writePrefix (Memory.observed (s.flag .tvalid) s.tmp)
      (horizontalPass N s.draws (imgWord s) s.w.toNat s.h.toNat s.radius.toNat (kernelEntry s))
    }.setFlag .tvalid true))

/-- VPASS (R163). -/
def execVpass (s : State) : Result :=
  let N := num s.draws
  if geometryExceeds s then .next (raiseError .geometry s)
  else if !s.flag .kvalid || !s.flag .tvalid || windowExceeds N s then .next (raiseError .operand s)
  else .next (endCommand { s with
    img := Memory.writePrefix s.img
      (verticalPass N s.draws (tmpWord s) s.w.toNat s.h.toNat s.radius.toNat (kernelEntry s)) })

/-- BLUR (R166). The kernel stays internal; the scratch memories, `KLEN` and `HALFLEN` end UNSPECIFIED (R35). -/
def execBlur (s : State) : Result :=
  let N := num s.draws
  let u := discardTmp (discardKernel s)
  if !validSigma s.sigma then .next (raiseError .invalidParameter u)
  else if geometryExceeds s then .next (raiseError .geometry u)
  else if exceedsKernelCapacity N s.sigma s.cap.khalfMax then .next (raiseError .kernelCapacity u)
  else
    let kernel := generate N s.sigma
    .next (endCommand { u with
      img := Memory.writePrefix s.img
        (blurWords N s.draws (imgWord s) s.w.toNat s.h.toNat (blurRadius N s.sigma) fun n => kernel.getD n 0)
      tmp := []
      kbuf := []
      klen := Config.freeWord s.draws .klen
      halflen := Config.freeWord s.draws .halflen })

end Sys2Proof.Machine
end

