-- ==== Sys2Proof/Machine/Sharpen.lean ====
section
/-!
DEFINITION. sharpening_kernel_apply (spec 45_sharpening_kernel_apply): the fixed 3x3 kernel and the command SHARPEN.
-/
namespace Sys2Proof.Machine

/-- `z = 5c - n - s - w - e`, exactly, on integers (R180, R183). -/
def sharpenSum (centre above below left right : Word) : Int :=
  5 * (centre.toNat : Int) - above.toNat - below.toNat - left.toNat - right.toNat

/-- An interior pixel: `1 <= i <= H - 2` and `1 <= j <= W - 2` over the integers (R181), none when `H < 3` or `W < 3`. -/
def interior (w h i j : Nat) : Bool := decide (1 ≤ i) && decide (i + 2 ≤ h) && decide (1 ≤ j) && decide (j + 2 ≤ w)

/-- The three sums of the pixel at row `i`, column `j`, handed to `pack` as floating accumulators (R181, R183). -/
def sharpenSums (N : Numerics) (px : Nat → Word) (w i j : Nat) : Rgb F64 :=
  let c := unpack (px (pixelIndex w i j))
  let a := unpack (px (pixelIndex w (i - 1) j))
  let b := unpack (px (pixelIndex w (i + 1) j))
  let l := unpack (px (pixelIndex w i (j - 1)))
  let r := unpack (px (pixelIndex w i (j + 1)))
  { r := N.ofInt (sharpenSum c.r a.r b.r l.r r.r)
    g := N.ofInt (sharpenSum c.g a.g b.g l.g r.g)
    b := N.ofInt (sharpenSum c.b a.b b.b l.b r.b) }

/-- The destination buffer `D` (R181, R182): all-zero, with every interior pixel assigned from the source image. -/
def sharpenWords (N : Numerics) (d : Nat) (px : Nat → Word) (w h : Nat) : List Word :=
  (List.range (w * h)).map fun n =>
    if interior w h (n / w) (n % w) then packOrDraw N d (.packed .img n) (sharpenSums N px w (n / w) (n % w)) else 0

/-- SHARPEN (R181): the destination buffer, held in `TMP`, is copied back over the whole image and discarded. -/
def execSharpen (s : State) : Result :=
  let u := discardTmp s
  if geometryExceeds s then .next (raiseError .geometry u)
  else .next (endCommand { u with
    img := Memory.writePrefix s.img (sharpenWords (num s.draws) s.draws (imgWord s) s.w.toNat s.h.toNat)
    tmp := [] })

end Sys2Proof.Machine
end

