-- ==== Sys2Proof/Machine/Dispatch.lean ====
section
/-! DEFINITION. The meaning of every command: its rule, from the launch state `issueCommand` makes to its end (R92). -/
namespace Sys2Proof.Machine

def exec (i : Instr) (s : State) : Host.Outcome State Fault Refusal :=
  match i with
  | .unpack => Sys2Proof.Machine.execUnpack s
  | .pack => Sys2Proof.Machine.execPack s
  | .kgen => Sys2Proof.Machine.execKgen s
  | .fir1dH => Sys2Proof.Machine.execFir1dH s
  | .fir1dV => Sys2Proof.Machine.execFir1dV s
  | .hpass => Sys2Proof.Machine.execHpass s
  | .vpass => Sys2Proof.Machine.execVpass s
  | .blur => Sys2Proof.Machine.execBlur s
  | .sharpen => Sys2Proof.Machine.execSharpen s

end Sys2Proof.Machine
end

