-- ==== Sys2Proof/Machine/Transactions.lean ====
section
/-!
DEFINITION. The host transactions (spec 20_memory R70 to R73, 30_encoding R92, 70_reset_and_hazards R226).
-/
namespace Sys2Proof.Machine

/-- A write of `c` to `CMD` (R92): the command is issued, decoded and run to its end; a reserved word ends it at once
with IllegalCommand (R96, R192). One atomic step (R228). -/
def runCommand (c : Word) (s : State) : Result :=
  match decode c with
  | .ok i => exec i (issueCommand c s)
  | .error _ => .next (raiseError .illegalCommand (issueCommand c s))

/-- `HostWriteReg(n, v)` (R70, R72). -/
def hostWriteReg (n : Nat) (v : HostValue) (s : State) : Result :=
  match regOfNumber n, v with
  | none, _ => .refused .noSuchRegister
  | some .cmd, .w32 c => runCommand c s
  | some r, v =>
    match writeRegister s r v with
    | some t => .next t
    | none => .refused .valueWidth

/-- `HostReadReg(n)` (R70, R72): the value goes to the host. -/
def hostReadReg (n : Nat) (s : State) : Result :=
  match regOfNumber n with
  | none => .refused .noSuchRegister
  | some r => .next { s with answer := some (readRegister s r) }

/-- `HostWriteMem(S, idx, v)` (R70, R72): a write of `TMP` clears `TVALID`, one of `KBUF` clears `KVALID` (R32). -/
def hostWriteMem (sp : Space) (idx : Nat) (v : HostValue) (s : State) : Result :=
  if s.cap.entries sp ≤ idx then .refused .noSuchEntry
  else
    match sp, v with
    | .img, .w32 x => .next { s with img := Memory.write s.img idx x }
    | .tmp, .w32 x => .next (discardTmp { s with tmp := Memory.write s.tmp idx x })
    | .kbuf, .w64 x => .next (discardKernel { s with kbuf := Memory.write s.kbuf idx x })
    | _, _ => .refused .valueWidth

/-- What a host read of a memory returns (R70): scratch whose validity flag is 0 is UNSPECIFIED (R32, U2). -/
def readMemory (s : State) (idx : Nat) : Space → HostValue
  | .img => .w32 (imgWord s idx)
  | .tmp => .w32 ((Memory.read (Memory.observed (s.flag .tvalid) s.tmp) idx).getD
      (Config.freeWord s.draws (.entry .tmp idx)))
  | .kbuf => .w64 ((Memory.read (Memory.observed (s.flag .kvalid) s.kbuf) idx).getD
      (Config.freeDouble s.draws (.entry .kbuf idx)))

/-- `HostReadMem(S, idx)` (R70, R72). -/
def hostReadMem (sp : Space) (idx : Nat) (s : State) : Result :=
  if s.cap.entries sp ≤ idx then .refused .noSuchEntry
  else .next { s with answer := some (readMemory s idx sp) }

/-- `HostWait()` (R70, R201): a read of `STATUS`, repeated as the host's next transaction while `BUSY` reads 1. -/
def hostWait (s : State) : Result :=
  let t := { s with answer := some (readRegister s .status) }
  .next (if s.flag .busy then { t with host := .wait :: t.host } else t)

/-- One host transaction. On a busy engine only a `STATUS` read, a wait (which is one) and a reset have a meaning
(R226). -/
def transact (op : HostOp) (s : State) : Result :=
  match op with
  | .reset => .next (hostReset s)
  | .wait => hostWait s
  | .readReg n => if s.flag .busy && n != 1 then .refused .busyEngine else hostReadReg n s
  | .writeReg n v => if s.flag .busy then .refused .busyEngine else hostWriteReg n v s
  | .writeMem sp idx v => if s.flag .busy then .refused .busyEngine else hostWriteMem sp idx v s
  | .readMem sp idx => if s.flag .busy then .refused .busyEngine else hostReadMem sp idx s

end Sys2Proof.Machine
end

