-- ==== Sys2Proof/Machine/Step.lean ====
section
/-!
DEFINITION. One step of the machine: the host's next transaction (spec 10_state R28, 20_memory R75, 70_reset_and_hazards
R228), and how a command comes to be the next one.
-/
namespace Sys2Proof.Machine

/-- One step: the host's next transaction, under a draw number of its own. With none left the engine "is idle and keeps
its whole state" (R210). -/
def step (s : State) : Host.Outcome State Fault Refusal :=
  match s.host with
  | [] => .next s
  | op :: rest => transact op { s with host := rest, draws := s.draws + 1 }

/-- A table word made the next thing the machine runs: the host's next transaction writes it to `CMD` of an idle
engine, ahead of whatever the host was going to do. -/
def State.withFetchWord (s : State) (nbits w : Nat) : State :=
  { s.setFlag .busy false with host := .writeReg 0 (.w32 (tableWord nbits w)) :: s.host }

end Sys2Proof.Machine
end

