-- ==== Sys2Proof/Machine/HostPrograms.lean ====
section
/-!
DEFINITION. Host programs (spec 30_encoding R100 to R102): the lines of the host's notation as transactions, and the
expansions of the source document's calls. A program runs by standing in `State.host`.
-/
namespace Sys2Proof.Machine

/-- The number of a register (R22). -/
def regNumber : Reg → Nat
  | .cmd => 0
  | .status => 1
  | .errcode => 2
  | .w => 3
  | .h => 4
  | .sigma => 5
  | .radius => 6
  | .halflen => 7
  | .klen => 8
  | .row => 9
  | .col => 10
  | .pix => 11
  | .chR => 12
  | .chG => 13
  | .chB => 14
  | .accR => 15
  | .accG => 16
  | .accB => 17

/-- `WR <reg>, <value>` for a 32-bit register (R100). -/
def wr (r : Reg) (v : Word) : HostOp := .writeReg (regNumber r) (.w32 v)

/-- `WR <reg>, <value>` for an `F64` register (R100). -/
def wr64 (r : Reg) (v : F64) : HostOp := .writeReg (regNumber r) (.w64 v)

/-- A mnemonic line: "`HostWriteReg(0, command word of <mnemonic>)` followed by `HostWait()`" (R100). -/
def commandLine (i : Instr) : List HostOp := [wr .cmd (encode i), .wait]

/-- `generateGaussianKernel(sigma)` (R101). -/
def generateGaussianKernel (sigma : F64) : List HostOp := wr64 .sigma sigma :: commandLine .kgen

/-- `applyBlur(image, sigma)`, the image being in place (R101). -/
def applyBlur (sigma : F64) : List HostOp := wr64 .sigma sigma :: commandLine .blur

/-- `applySharpen(image)`, the image being in place (R101). -/
def applySharpen : List HostOp := commandLine .sharpen

/-- `unpack(pixel)` (R101). -/
def unpackCall (p : Word) : List HostOp := wr .pix p :: commandLine .unpack

/-- `pack(r, g, b)` (R101). -/
def packCall (r g b : F64) : List HostOp := [wr64 .accR r, wr64 .accG g, wr64 .accB b] ++ commandLine .pack

/-- Loading an image (R101): `W`, `H`, then the pixels in order. -/
def loadImage (w h : Word) (pixels : List Word) : List HostOp :=
  [wr .w w, wr .h h] ++ (numbered 0 pixels).map fun e => .writeMem .img e.1 (.w32 e.2)

/-- `applyBlur` from primitives (R102); the host computes `radius = 3 * floor(sigma)` itself. -/
def applyBlurFromPrimitives (sigma : F64) (radius : Word) : List HostOp :=
  wr64 .sigma sigma :: commandLine .kgen ++ wr .radius radius :: (commandLine .hpass ++ commandLine .vpass)

/-- The host given a program to perform next. -/
def State.withProgram (s : State) (program : List HostOp) : State := { s with host := program ++ s.host }

end Sys2Proof.Machine
end

