-- ==== Sys2Proof/Safety.lean ====
section
/-!
DEFINITION. The terms claims use: the invariant every step keeps, what "unchanged" means for registers, flags and
memories, the number a binary64 pattern stands for and what it is to round to one, and the spec's formulas written out
apart from the machine's own functions.
-/
namespace Sys2Proof.Machine

/-! ### What a step keeps -/

/-- The contents of a register, as stored (a host read of `STATUS`, `HALFLEN` or `KLEN` may return something else). -/
def contents (s : State) : Reg → HostValue
  | .cmd => .w32 s.cmd
  | .status => .w32 s.status
  | .errcode => .w32 s.errcode
  | .w => .w32 s.w
  | .h => .w32 s.h
  | .sigma => .w64 s.sigma
  | .radius => .w32 s.radius
  | .halflen => .w32 s.halflen
  | .klen => .w32 s.klen
  | .row => .w32 s.row
  | .col => .w32 s.col
  | .pix => .w32 s.pix
  | .chR => .w32 s.chR
  | .chG => .w32 s.chG
  | .chB => .w32 s.chB
  | .accR => .w64 s.accR
  | .accG => .w64 s.accG
  | .accB => .w64 s.accB

/-- Every register but the listed ones and `STATUS` (whose bits `KeepsFlags` is about) is unchanged. -/
def KeepsRegisters (changed : List Reg) (s t : State) : Prop :=
  ∀ r : Reg, r ≠ .status → r ∉ changed → contents t r = contents s r

/-- Every field of `STATUS` but the listed ones is unchanged, and so is every bit that is no field. -/
def KeepsFlags (changed : List Flag) (s t : State) : Prop :=
  (∀ f : Flag, f ∉ changed → t.flag f = s.flag f) ∧
    ∀ b : Nat, 4 ≤ b → t.status.getLsbD b = s.status.getLsbD b

/-- No entry of a memory at or above index `k` changes: reading it after gives what reading it before gave. -/
def KeepsFrom {n : Nat} (k : Nat) (m m' : Memory n) : Prop := ∀ i : Nat, k ≤ i → Memory.read m' i = Memory.read m i

/-- All of `IMG` reads as before. -/
def KeepsImg (s t : State) : Prop := KeepsFrom 0 s.img t.img

/-- All of `TMP` reads as before. -/
def KeepsTmp (s t : State) : Prop := KeepsFrom 0 s.tmp t.tmp

/-- All of `KBUF` reads as before. -/
def KeepsKbuf (s t : State) : Prop := KeepsFrom 0 s.kbuf t.kbuf

/-- What no command touches of the model's own fields: the capacities, the draw number and the host's side. -/
def KeepsHost (s t : State) : Prop := t.cap = s.cap ∧ t.draws = s.draws ∧ t.host = s.host ∧ t.answer = s.answer

/-- What ends with error `e`: `ERRCODE` its code, `ERR = 1`, `BUSY = 0` (R196). -/
def EndsWithError (e : CmdError) (t : State) : Prop :=
  t.errcode = errorCode e ∧ t.flag .err = true ∧ t.flag .busy = false

/-- The data state of R196: "all of `IMG`, `TMP`, `KBUF`, and every register other than `CMD`, `STATUS`, `ERRCODE`". -/
def KeepsData (s t : State) : Prop :=
  KeepsRegisters [.cmd, .errcode] s t ∧ KeepsImg s t ∧ KeepsTmp s t ∧ KeepsKbuf s t

/-! ### The invariant -/

/-- The memories are in canonical form and within the capacities (R60, R72). -/
def MemoriesWf (s : State) : Prop :=
  Memory.wf s.img = true ∧ Memory.wf s.tmp = true ∧ Memory.wf s.kbuf = true ∧
    Memory.within s.img (s.cap.entries .img) = true ∧ Memory.within s.tmp (s.cap.entries .tmp) = true ∧
    Memory.within s.kbuf (s.cap.entries .kbuf) = true

/-- `STATUS` between transactions: idle, reserved bits zero, `ERR = 1` exactly when `ERRCODE != 0`, `ERRCODE` one of
the six codes (R30, R190, R228). -/
def StatusWf (s : State) : Prop :=
  s.flag .busy = false ∧ statusReads s.status = s.status ∧ (s.flag .err = true ↔ s.errcode ≠ 0) ∧ s.errcode.toNat ≤ 5

/-- `KVALID = 1` means that `KBUF[0 .. KLEN-1]`, `KLEN` and `HALFLEN` hold a kernel (R32, R142); the kernel length is
`2 * half_length - 1`, where every admitted length fits its register. -/
def KernelWf (s : State) : Prop :=
  s.flag .kvalid = true →
    s.kernelDiscarded = false ∧ (s.cap.khalfMax ≤ 2 ^ 31 → s.klen.toNat = 2 * s.halflen.toNat - 1) ∧
      Memory.definedBelow s.kbuf s.klen.toNat = true

/-- `TVALID = 1` means that `TMP[0 .. W*H-1]` is defined, for the present `W` and `H`, and fits (R32). -/
def TmpWf (s : State) : Prop :=
  s.flag .tvalid = true → pixelCount s ≤ s.cap.imgWords ∧ Memory.definedBelow s.tmp (pixelCount s) = true

/-- The invariant of the machine. -/
def Inv (s : State) : Prop := MemoriesWf s ∧ StatusWf s ∧ KernelWf s ∧ TmpWf s ∧ 1 ≤ s.cap.khalfMax

/-! ### Binary64 as numbers -/

/-- The number a finite pattern stands for (R110). -/
def toRat (a : F64) : ℚ := (a.signedMag : ℚ) / 2 ^ 1074

/-- `r` is the real number `v` "rounded once to `F64`, to nearest, ties to the value with an even last fraction bit;
overflow gives an infinity" (R111). The least magnitude that overflows is midway between the greatest finite value and
`2^1024`. -/
def RoundsTo (v : ℝ) (r : F64) : Prop :=
  (r.isFinite = true ↔ |v| < 2 ^ 1024 - 2 ^ 970) ∧
  (r.isFinite = true →
    ∀ z : F64, z.isFinite = true →
      |(toRat r : ℝ) - v| ≤ |(toRat z : ℝ) - v| ∧
        (|(toRat z : ℝ) - v| = |(toRat r : ℝ) - v| → toRat z ≠ toRat r → r.getLsbD 0 = false)) ∧
  (r.isFinite = false → r.isInf = true ∧ (r.sign = true ↔ v < 0))

/-- `t(x)` of R118 on a rational number: truncation toward zero. -/
def towardZero (q : ℚ) : Int := if 0 ≤ q then ⌊q⌋ else ⌈q⌉

/-! ### The spec's formulas, written out -/

/-- The command words of R93, as its table prints them. -/
def commandWord : Instr → Word
  | .unpack => 0x00000001
  | .pack => 0x00000002
  | .kgen => 0x00000003
  | .fir1dH => 0x00000004
  | .fir1dV => 0x00000104
  | .hpass => 0x00000005
  | .vpass => 0x00000006
  | .blur => 0x00000007
  | .sharpen => 0x00000008

/-- The channel of a packed pixel whose lowest bit is bit `shift` (R24): 16 red, 8 green, 0 blue. -/
def channel (p : Word) (shift : Nat) : Nat := p.toNat / 2 ^ shift % 256

/-- One channel of `Fir1D` (R151 to R154) for `TAP_BASE = 0`: over taps `m = k + radius = 0 .. 2 * radius` in that
order, the weight `K[m]` times the channel of the sample at `p + m - radius`, cut to `0 .. n - 1` (subtraction on
natural numbers stops at 0), each product and each sum rounded, from `+0.0`. -/
def windowSum (N : Numerics) (sample : Nat → Word) (shift n p radius : Nat) (K : Nat → F64) : F64 :=
  (List.range (2 * radius + 1)).foldl
    (fun sum m => N.fadd sum (N.fmul (K m) (N.ofInt (channel (sample (min (p + m - radius) (n - 1))) shift : Nat))))
    0

/-- The three window sums along row `i` around column `j` of an image (R155). -/
def rowSums (N : Numerics) (px : Nat → Word) (w radius : Nat) (K : Nat → F64) (i j : Nat) : Rgb F64 where
  r := windowSum N (fun q => px (i * w + q)) 16 w j radius K
  g := windowSum N (fun q => px (i * w + q)) 8 w j radius K
  b := windowSum N (fun q => px (i * w + q)) 0 w j radius K

/-- The three window sums along column `j` around row `i` of an image (R156). -/
def columnSums (N : Numerics) (px : Nat → Word) (w h radius : Nat) (K : Nat → F64) (i j : Nat) : Rgb F64 where
  r := windowSum N (fun q => px (q * w + j)) 16 h i radius K
  g := windowSum N (fun q => px (q * w + j)) 8 h i radius K
  b := windowSum N (fun q => px (q * w + j)) 0 h i radius K

/-- The weight at distance `i` from the centre: `norm * fexp(-(i*i) / (2 * sigma^2))`, in the order of R143. An `i*i` of
`2^53` or more is converted as log entry 25 says. -/
def weightAt (N : Numerics) (s : F64) (i : Nat) : F64 :=
  N.fmul (N.fdiv (N.ofInt 1) (N.fsqrt (N.fmul (N.fmul (N.ofInt 2) N.pi) (N.fmul s s))))
    (N.fexp (N.fdiv (F64.neg (squaredIndex N (N.fmul (N.ofInt 2) (N.fmul s s)) i)) (N.fmul (N.ofInt 2) (N.fmul s s))))

/-- The weight of kernel entry `n` by the closed form of R144: `temp[ |n - (hl - 1)| ]`. -/
def kernelWeight (N : Numerics) (s : F64) (n : Nat) : F64 :=
  weightAt N s ((n : Int) - ((halfLength N s : Int) - 1)).natAbs

/-- One channel of the sharpen sum at row `i`, column `j` (R180, R183). -/
def sharpenChannel (px : Nat → Word) (shift w i j : Nat) : Int :=
  5 * (channel (px (i * w + j)) shift : Int) - channel (px ((i - 1) * w + j)) shift -
    channel (px ((i + 1) * w + j)) shift - channel (px (i * w + (j - 1))) shift - channel (px (i * w + (j + 1))) shift

/-- Three integers as two's complement words shifted into place and ORed (R132, R183). -/
def packedInts (r g b : Int) : Word := BitVec.ofInt 32 r <<< 16 ||| BitVec.ofInt 32 g <<< 8 ||| BitVec.ofInt 32 b

/-- The geometry check passes (R193). -/
def GeometryOk (s : State) : Prop := s.w.toNat * s.h.toNat ≤ s.cap.imgWords

/-- The window check passes: `2 * x[RADIUS] + 1 <= x[KLEN]`, `TAP_BASE` being 0 (R195). -/
def WindowOk (s : State) : Prop := 2 * s.radius.toNat + 1 ≤ s.klen.toNat

/-- `ROW` and `COL` lie inside the image (R195). -/
def PositionOk (s : State) : Prop := s.row.toNat < s.h.toNat ∧ s.col.toNat < s.w.toNat

/-- Sigma is a positive finite number (R117). -/
def SigmaOk (s : State) : Prop := s.sigma.isFinite = true ∧ 0 < toRat s.sigma

/-- `hf = fceil(5 * sigma + 1)` is finite and at most `KHALF_MAX` (R149, R194). -/
def CapacityOk (s : State) : Prop :=
  (halfLengthF (num s.draws) s.sigma).isFinite = true ∧ halfLength (num s.draws) s.sigma ≤ s.cap.khalfMax

end Sys2Proof.Machine
end

