-- ==== Sys2Proof/Certificates/Slice0/Obligations.lean ====
section
/-!
DEFINITION. The statements about the model. Each says in its docstring which rule of the spec it formalises. A
statement about `exec` speaks of a command from the launch state `issueCommand` makes (or any other state); one about
`step` speaks of whole host transactions.
-/

open Sys2Proof Sys2Proof.Machine

/-! ### Command words -/

/-- R94: a command word selects a command exactly when all its 32 bits equal one of the nine words of R93's table. -/
def Obligations.DecodingComparesAllBitsOfTheWord : Prop :=
  ∀ (c : Word) (i : Instr), decode c = .ok i ↔ c = commandWord i

/-- R93, R97: the encoder gives the table's words, decoding them gives the commands back, and the decoder reads sample
words written out from the table, the reserved zero word among them. -/
def Obligations.DecodeAndEncodeAgreeOnTheTable : Prop :=
  (∀ i : Instr, i.wf = true → decode (encode i) = .ok i ∧ encode i = commandWord i) ∧
    decode 0x00000104 = .ok .fir1dV ∧ decode 0x00000004 = .ok .fir1dH ∧ decode 0x00000008 = .ok .sharpen ∧
    decode 0x00000107 = .error .axis ∧ decode 0x00000204 = .error .rsv ∧ decode 0x00000000 = .error .opcode

/-! ### The step -/

/-- R92: a write of a command word to `CMD` of an idle engine sets `CMD`, `BUSY`, clears `ERR` and `ERRCODE`, decodes
and runs the command, which ends with `BUSY = 0`; on a busy engine it is refused. Around that the step takes the
transaction off the host's list and numbers it: `host` and `draws` are the model's own (log entries 4 and 13). -/
def Obligations.StepRunsTheDecodedCommand : Prop :=
  ∀ (s : State) (rest : List HostOp) (c : Word) (i : Instr),
    s.host = .writeReg 0 (.w32 c) :: rest → decode c = .ok i →
      (s.flag .busy = false →
        ∃ u t : State, step s = exec i u ∧ exec i u = .next t ∧ t.flag .busy = false ∧
          u = { s with
            host := rest
            draws := s.draws + 1
            cmd := c
            errcode := 0
            status := u.status } ∧
          u.flag .busy = true ∧ u.flag .err = false ∧ KeepsFlags [.busy, .err] s u) ∧
      (s.flag .busy = true → step s = .refused .busyEngine)

/-- R96, R192: a word that is none of the nine ends at once with IllegalCommand (code 2); nothing changes besides
`CMD`, `ERR` and `ERRCODE`. (That the transaction leaves the host's list is the model's own, log entry 13.) -/
def Obligations.ReservedWordEndsWithIllegalCommand : Prop :=
  ∀ (s : State) (rest : List HostOp) (c : Word),
    s.host = .writeReg 0 (.w32 c) :: rest → s.flag .busy = false → (∀ i : Instr, c ≠ commandWord i) →
      ∃ t : State, step s = .next t ∧ t.cmd = c ∧ EndsWithError .illegalCommand t ∧
        KeepsData s t ∧ KeepsFlags [.busy, .err] s t ∧ t.kernelDiscarded = s.kernelDiscarded ∧ t.cap = s.cap ∧
        t.host = rest

/-- R226: on a busy engine every transaction but a `STATUS` read, a wait and a reset is refused. That a wait is a repeated
`STATUS` read is R70's (log entry 16), that the others are refused the model's as R226 advises (log entry 18). -/
def Obligations.BusyEngineRefusesEverythingElse : Prop :=
  ∀ (s : State) (op : HostOp) (rest : List HostOp), s.host = op :: rest → s.flag .busy = true →
    (step s = .refused .busyEngine ↔ op ≠ .readReg 1 ∧ op ≠ .wait ∧ op ≠ .reset)

/-- R30: a host read of `STATUS`, on an idle or a busy engine, returns the four fields in bits 3:0 and zero above, and
changes nothing. -/
def Obligations.StatusReadReturnsTheFourFlags : Prop :=
  ∀ (s : State) (rest : List HostOp), s.host = .readReg 1 :: rest →
    ∃ v : Word, step s = .next { s with host := rest, draws := s.draws + 1, answer := some (.w32 v) } ∧
      v.toNat < 16 ∧ v.getLsbD 0 = s.flag .busy ∧ v.getLsbD 1 = s.flag .err ∧ v.getLsbD 2 = s.flag .kvalid ∧
      v.getLsbD 3 = s.flag .tvalid

/-- R70, R201: a wait is a `STATUS` read that is repeated while `BUSY` reads 1. That the repetition is the host's next
transaction is the model's own (log entry 16). -/
def Obligations.WaitRepeatsWhileBusy : Prop :=
  ∀ (s : State) (rest : List HostOp), s.host = .wait :: rest →
    ∃ t : State, step s = .next t ∧ t.host = (if s.flag .busy then .wait :: rest else rest) ∧
      t.answer = some (.w32 (statusReads s.status)) ∧ KeepsData s t ∧ t.cmd = s.cmd ∧ t.errcode = s.errcode ∧
      t.status = s.status ∧ t.kernelDiscarded = s.kernelDiscarded ∧ t.cap = s.cap

/-- R72, U8: a transaction that names a register number of 18 or more, or an index at or beyond the capacity, is
refused. -/
def Obligations.NonexistentRegisterOrEntryIsRefused : Prop :=
  ∀ (s : State) (rest : List HostOp), s.flag .busy = false →
    (∀ (n : Nat), 18 ≤ n →
      (s.host = .readReg n :: rest → step s = .refused .noSuchRegister) ∧
        ∀ v : HostValue, s.host = .writeReg n v :: rest → step s = .refused .noSuchRegister) ∧
    (∀ (sp : Space) (idx : Nat), s.cap.entries sp ≤ idx →
      (s.host = .readMem sp idx :: rest → step s = .refused .noSuchEntry) ∧
        ∀ v : HostValue, s.host = .writeMem sp idx v :: rest → step s = .refused .noSuchEntry)

/-- R75 for registers: a value of the register's width written to any host-writable register other than `CMD` is what
the next read of it returns; every other register is unchanged but `STATUS`, of which no bit but `TVALID` may change
(R32), no memory entry changes, and `HALFLEN` and `KLEN` are discarded after the write exactly if they were before it (log
entry 12). -/
def Obligations.RegisterReadReturnsTheLatestWrite : Prop :=
  ∀ (s : State) (rest : List HostOp) (r : Reg) (v : HostValue),
    s.host = .writeReg (regNumber r) v :: .readReg (regNumber r) :: rest → s.flag .busy = false →
      r ∉ [.cmd, .status, .errcode, .halflen, .klen] → v.is64 = regIs64 (regNumber r) →
        ∃ t u : State, step s = .next t ∧ step t = .next u ∧ u.answer = some v ∧ KeepsRegisters [r] s t ∧
          KeepsFlags [.tvalid] s t ∧ KeepsImg s t ∧ KeepsTmp s t ∧ KeepsKbuf s t ∧ t.kernelDiscarded = s.kernelDiscarded

/-- R70, R32: a host write of `W` or `H` also clears `TVALID`, a write of any other register clears no flag, and a write
of a read-only register (1, 2, 7, 8) is ignored. -/
def Obligations.RegisterWriteSideEffects : Prop :=
  ∀ (s : State) (rest : List HostOp) (n : Nat) (v : HostValue),
    s.host = .writeReg n v :: rest → s.flag .busy = false → n ≠ 0 → n < 18 → v.is64 = regIs64 n →
      ∃ t : State, step s = .next t ∧ t.host = rest ∧
        (n = 3 ∨ n = 4 → t.flag .tvalid = false ∧ KeepsFlags [.tvalid] s t) ∧
        (n ≠ 3 → n ≠ 4 → t.status = s.status) ∧
        (n = 1 ∨ n = 2 ∨ n = 7 ∨ n = 8 → t = { s with host := rest, draws := s.draws + 1 })

/-- R75, R73 for `IMG`: any 32-bit value written to a word inside the capacity is what a read of it returns, and every
other word of `IMG` reads as before. -/
def Obligations.ImageReadReturnsTheLatestWrite : Prop :=
  ∀ (s : State) (rest : List HostOp) (n : Nat) (v : Word),
    s.host = .writeMem .img n (.w32 v) :: .readMem .img n :: rest → s.flag .busy = false → n < s.cap.imgWords →
      ∃ t u : State, step s = .next t ∧ step t = .next u ∧ u.answer = some (.w32 v) ∧
        (∀ i : Nat, i ≠ n → Memory.read t.img i = Memory.read s.img i) ∧ KeepsTmp s t ∧ KeepsKbuf s t ∧
        KeepsRegisters [] s t ∧ t.status = s.status

/-- R32, R73: a host write to any word of `TMP` clears `TVALID`, to any entry of `KBUF` clears `KVALID` and discards
`HALFLEN` and `KLEN` with the kernel (the model's own mark of that, log entry 12), and no other entry or register changes.
What a read of the entry returns while the flag is 0 is another matter (log entry 11). -/
def Obligations.ScratchWritesClearTheirFlag : Prop :=
  ∀ (s : State) (rest : List HostOp) (n : Nat), s.flag .busy = false →
    (∀ v : Word, s.host = .writeMem .tmp n (.w32 v) :: rest → n < s.cap.imgWords →
      ∃ t : State, step s = .next t ∧ t.flag .tvalid = false ∧ KeepsFlags [.tvalid] s t ∧ KeepsRegisters [] s t ∧
        Memory.read t.tmp n = some v ∧ (∀ i : Nat, i ≠ n → Memory.read t.tmp i = Memory.read s.tmp i) ∧
        KeepsImg s t ∧ KeepsKbuf s t ∧ t.kernelDiscarded = s.kernelDiscarded) ∧
    (∀ v : F64, s.host = .writeMem .kbuf n (.w64 v) :: rest → n < 2 * s.cap.khalfMax - 1 →
      ∃ t : State, step s = .next t ∧ t.flag .kvalid = false ∧ KeepsFlags [.kvalid] s t ∧ KeepsRegisters [] s t ∧
        Memory.read t.kbuf n = some v ∧ (∀ i : Nat, i ≠ n → Memory.read t.kbuf i = Memory.read s.kbuf i) ∧
        KeepsImg s t ∧ KeepsTmp s t ∧ t.kernelDiscarded = true)

/-- R70, R32, R66: a read of a defined word of `IMG`, of a defined entry of `TMP` while `TVALID = 1` or of `KBUF` while
`KVALID = 1`, and of any register (`STATUS` with zero above bit 3, R30; `HALFLEN` and `KLEN` while they are not discarded,
the model's own mark of that, log entry 12) returns the contents and changes nothing. Where the answer goes is the model's own (log entry 15). -/
def Obligations.ReadsOfDefinedEntriesReturnTheContents : Prop :=
  ∀ (s : State) (rest : List HostOp) (n : Nat) (answered : HostValue → State), s.flag .busy = false →
    (∀ v : HostValue, answered v = { s with host := rest, draws := s.draws + 1, answer := some v }) →
    (∀ v : Word, s.host = .readMem .img n :: rest → n < s.cap.imgWords → Memory.read s.img n = some v →
      step s = .next (answered (.w32 v))) ∧
    (∀ v : Word, s.host = .readMem .tmp n :: rest → n < s.cap.imgWords → s.flag .tvalid = true →
      Memory.read s.tmp n = some v → step s = .next (answered (.w32 v))) ∧
    (∀ v : F64, s.host = .readMem .kbuf n :: rest → n < 2 * s.cap.khalfMax - 1 → s.flag .kvalid = true →
      Memory.read s.kbuf n = some v → step s = .next (answered (.w64 v))) ∧
    (∀ r : Reg, s.host = .readReg (regNumber r) :: rest → (r = .halflen ∨ r = .klen → s.kernelDiscarded = false) →
      step s = .next (answered (if r = .status then .w32 (statusReads s.status) else contents s r)))

/-- R70, R66: a read of any register and of any entry inside the capacity, be it UNSPECIFIED or discarded (R32), answers
some value of its width and changes nothing but the host's side (which value is free: log entries 3, 11 and 12). -/
def Obligations.EveryReadAnswersAndChangesNothing : Prop :=
  ∀ (s : State) (rest : List HostOp), s.flag .busy = false →
    (∀ r : Reg, s.host = .readReg (regNumber r) :: rest →
      ∃ v : HostValue, v.is64 = regIs64 (regNumber r) ∧
        step s = .next { s with host := rest, draws := s.draws + 1, answer := some v }) ∧
    (∀ (sp : Space) (n : Nat), s.host = .readMem sp n :: rest → n < s.cap.entries sp →
      ∃ v : HostValue, v.is64 = spaceIs64 sp ∧
        step s = .next { s with host := rest, draws := s.draws + 1, answer := some v })

/-- R220, R221: a reset, of an idle or a busy engine, zeroes all eighteen registers (R40) and leaves every entry of the
three memories without a value. (That the host's list goes on and the capacities stay is the model's own, log entry
23, and so is the mark that no kernel is discarded, without which `HALFLEN` and `KLEN` would not read 0, log entry 12.) -/
def Obligations.HostResetClearsEverything : Prop :=
  ∀ (s : State) (rest : List HostOp), s.host = .reset :: rest →
    ∃ t : State, step s = .next t ∧ t.host = rest ∧ t.cap = s.cap ∧
      (∀ r : Reg, contents t r = (if regIs64 (regNumber r) then .w64 0 else .w32 0) ∧
        readRegister t r = contents t r) ∧ t.kernelDiscarded = false ∧
      (∀ i : Nat, Memory.read t.img i = none ∧ Memory.read t.tmp i = none ∧ Memory.read t.kbuf i = none) ∧
      ∀ f : Flag, t.flag f = false

/-- R40: after reset every register holds zero and reads as zero, no flag is set, and no entry of a memory has a value (R41). -/
def Obligations.ResetStateIsAsSpecified : Prop :=
  (∀ r : Reg, contents State.reset r = (if regIs64 (regNumber r) then .w64 0 else .w32 0) ∧
      readRegister State.reset r = contents State.reset r) ∧
    (∀ f : Flag, State.reset.flag f = false) ∧
    ∀ i : Nat, Memory.read State.reset.img i = none ∧ Memory.read State.reset.tmp i = none ∧
      Memory.read State.reset.kbuf i = none

/-! ### channel_pack_unpack -/

/-- R130, R131: UNPACK completes from every state; `CH_R`, `CH_G`, `CH_B` are bits 23:16, 15:8, 7:0 of `PIX`,
zero-extended; nothing else changes but `BUSY`. -/
def Obligations.UnpackGivesTheThreeChannels : Prop :=
  ∀ s : State, ∃ t : State, exec .unpack s = .next t ∧
    t.chR.toNat = channel s.pix 16 ∧ t.chG.toNat = channel s.pix 8 ∧ t.chB.toNat = channel s.pix 0 ∧
    KeepsRegisters [.chR, .chG, .chB] s t ∧ KeepsFlags [.busy] s t ∧ t.flag .busy = false ∧
    KeepsImg s t ∧ KeepsTmp s t ∧ KeepsKbuf s t ∧ KeepsHost s t ∧ t.kernelDiscarded = s.kernelDiscarded

/-- R132, R133, R118, R120: PACK with three finite accumulators whose truncations fit 32 bits leaves the three truncated
words shifted into place and ORed, without a clamp; nothing else changes but `BUSY`. -/
def Obligations.PackTruncatesShiftsAndOrs : Prop :=
  ∀ (s : State) (r g b : Int),
    s.accR.isFinite = true → s.accG.isFinite = true → s.accB.isFinite = true →
    r = towardZero (toRat s.accR) → g = towardZero (toRat s.accG) → b = towardZero (toRat s.accB) →
    (∀ z ∈ [r, g, b], -2 ^ 31 ≤ z ∧ z ≤ 2 ^ 31 - 1) →
      ∃ t : State, exec .pack s = .next t ∧ t.pix = packedInts r g b ∧
        KeepsRegisters [.pix] s t ∧ KeepsFlags [.busy] s t ∧ t.flag .busy = false ∧
        KeepsImg s t ∧ KeepsTmp s t ∧ KeepsKbuf s t ∧ KeepsHost s t ∧ t.kernelDiscarded = s.kernelDiscarded

/-- R133, R197: PACK cannot fail: whatever the accumulators hold it answers a next state in which only `PIX` and `BUSY`
may have changed, so `ERR` and `ERRCODE` are as they were, and `HALFLEN` and `KLEN` are not discarded by it (log entry
12). -/
def Obligations.PackNeverFails : Prop :=
  ∀ s : State, ∃ t : State, exec .pack s = .next t ∧
    KeepsRegisters [.pix] s t ∧ KeepsFlags [.busy] s t ∧ t.flag .busy = false ∧
    KeepsImg s t ∧ KeepsTmp s t ∧ KeepsKbuf s t ∧ KeepsHost s t ∧ t.kernelDiscarded = s.kernelDiscarded

/-- R135 (a): packing the unpacked channels of any word gives the word with its top 8 bits cleared. -/
def Obligations.PackOfUnpackKeepsTheLow24Bits : Prop :=
  ∀ (d : Nat) (p : Word),
    pack (num d) ⟨F64.ofInt (channel p 16 : Nat), F64.ofInt (channel p 8 : Nat), F64.ofInt (channel p 0 : Nat)⟩ =
      some (p &&& 0x00FFFFFF#32)

/-- R135 (b): for finite values with truncations in [0, 255], unpacking the packed word gives the truncations back, and
bits 31:24 of the word are zero. -/
def Obligations.UnpackOfPackGivesTheTruncations : Prop :=
  ∀ (d : Nat) (c : Rgb F64) (r g b : Nat),
    c.r.isFinite = true → c.g.isFinite = true → c.b.isFinite = true →
    (r : Int) = towardZero (toRat c.r) → (g : Int) = towardZero (toRat c.g) → (b : Int) = towardZero (toRat c.b) →
    r < 256 → g < 256 → b < 256 →
      ∃ p : Word, pack (num d) c = some p ∧ channel p 16 = r ∧ channel p 8 = g ∧ channel p 0 = b ∧ p.toNat < 2 ^ 24

/-! ### gaussian_kernel_gen -/

/-- R140 to R144: KGEN with a valid sigma whose kernel fits leaves `half_length`, the kernel length and the
`2 * half_length - 1` weights, sets `KVALID`, and changes nothing else but `BUSY`. Entries above the
kernel are not written: they read as before while `KVALID` was 1 and have no value when they were discarded (log entry
26); `HALFLEN` and `KLEN` are no longer discarded (log entry 12); what a length of `2^32` or more leaves in its register is
a free value (log entry 10). Weights at distances of 94906266 and more rest on log entry 25. -/
def Obligations.KgenLeavesTheKernel : Prop :=
  ∀ (s : State) (hl : Nat), SigmaOk s → CapacityOk s → hl = halfLength (num s.draws) s.sigma →
    ∃ t : State, exec .kgen s = .next t ∧
      (hl < 2 ^ 32 → t.halflen.toNat = hl) ∧ (2 * hl - 1 < 2 ^ 32 → t.klen.toNat = 2 * hl - 1) ∧
      t.flag .kvalid = true ∧
      (∀ n : Nat, n < 2 * hl - 1 → Memory.read t.kbuf n = some (kernelWeight (num s.draws) s.sigma n)) ∧
      (s.flag .kvalid = true → KeepsFrom (2 * hl - 1) s.kbuf t.kbuf) ∧
      (s.flag .kvalid = false → ∀ n : Nat, 2 * hl - 1 ≤ n → Memory.read t.kbuf n = none) ∧
      t.kernelDiscarded = false ∧ KeepsImg s t ∧ KeepsTmp s t ∧
      KeepsRegisters [.halflen, .klen] s t ∧ KeepsFlags [.busy, .kvalid] s t ∧ t.flag .busy = false ∧ KeepsHost s t

/-- R145: the kernel KGEN leaves is symmetric bit for bit. -/
def Obligations.KernelIsSymmetricBitForBit : Prop :=
  ∀ (s t : State) (hl n : Nat), SigmaOk s → CapacityOk s → hl = halfLength (num s.draws) s.sigma →
    exec .kgen s = .next t → n < 2 * hl - 1 → Memory.read t.kbuf n = Memory.read t.kbuf (2 * hl - 2 - n)

/-- R191, R194, R141, R46: KGEN ends with InvalidParameterError when sigma is not a positive finite number, else with
KernelCapacityError when the kernel does not fit; `KVALID` is 0, `HALFLEN` and `KLEN` are discarded with the kernel (the
model's own mark of that, log entry 12) and nothing else changes. -/
def Obligations.KgenErrors : Prop :=
  ∀ s : State,
    (¬ SigmaOk s → ∃ t : State, exec .kgen s = .next t ∧ EndsWithError .invalidParameter t ∧ t.flag .kvalid = false ∧
      KeepsData s t ∧ t.cmd = s.cmd ∧ KeepsFlags [.busy, .err, .kvalid] s t ∧ KeepsHost s t ∧
      t.kernelDiscarded = true) ∧
    (SigmaOk s → ¬ CapacityOk s → ∃ t : State, exec .kgen s = .next t ∧ EndsWithError .kernelCapacity t ∧
      t.flag .kvalid = false ∧ KeepsData s t ∧ t.cmd = s.cmd ∧ KeepsFlags [.busy, .err, .kvalid] s t ∧ KeepsHost s t ∧
      t.kernelDiscarded = true)

/-! ### fir_convolver_1d -/

/-- R155, R153: FIR1D.H with its operands in order leaves the three un-truncated sums of the horizontal window at
`ROW`, `COL` and changes nothing else but `BUSY`. -/
def Obligations.Fir1dHLeavesTheRowSums : Prop :=
  ∀ s : State, GeometryOk s → s.flag .kvalid = true → PositionOk s → WindowOk s →
    ∃ t : State, exec .fir1dH s = .next t ∧
      (⟨t.accR, t.accG, t.accB⟩ : Rgb F64) = rowSums (num s.draws) (imgWord s) s.w.toNat s.radius.toNat
        (kernelEntry s) s.row.toNat s.col.toNat ∧
      KeepsRegisters [.accR, .accG, .accB] s t ∧ KeepsFlags [.busy] s t ∧ t.flag .busy = false ∧
      KeepsImg s t ∧ KeepsTmp s t ∧ KeepsKbuf s t ∧ KeepsHost s t ∧ t.kernelDiscarded = s.kernelDiscarded

/-- R156, R153: FIR1D.V likewise, along column `COL` of `TMP` around row `ROW`. -/
def Obligations.Fir1dVLeavesTheColumnSums : Prop :=
  ∀ s : State, GeometryOk s → s.flag .kvalid = true → s.flag .tvalid = true → PositionOk s → WindowOk s →
    ∃ t : State, exec .fir1dV s = .next t ∧
      (⟨t.accR, t.accG, t.accB⟩ : Rgb F64) = columnSums (num s.draws) (tmpWord s) s.w.toNat s.h.toNat s.radius.toNat
        (kernelEntry s) s.row.toNat s.col.toNat ∧
      KeepsRegisters [.accR, .accG, .accB] s t ∧ KeepsFlags [.busy] s t ∧ t.flag .busy = false ∧
      KeepsImg s t ∧ KeepsTmp s t ∧ KeepsKbuf s t ∧ KeepsHost s t ∧ t.kernelDiscarded = s.kernelDiscarded

/-- R193, R195, R198: FIR1D.H and FIR1D.V end with GeometryError when `W * H > IMG_WORDS`, else with OperandError when a
flag they need is 0, the position is outside or the window exceeds `KLEN`; neither changes anything else. -/
def Obligations.Fir1dErrors : Prop :=
  ∀ (s : State) (i : Instr) (e : CmdError), i = .fir1dH ∨ i = .fir1dV →
    (¬ GeometryOk s ∧ e = .geometry ∨
      GeometryOk s ∧ e = .operand ∧
        (s.flag .kvalid = false ∨ i = .fir1dV ∧ s.flag .tvalid = false ∨ ¬ PositionOk s ∨ ¬ WindowOk s)) →
    ∃ t : State, exec i s = .next t ∧ EndsWithError e t ∧ KeepsData s t ∧ t.cmd = s.cmd ∧
      KeepsFlags [.busy, .err] s t ∧ KeepsHost s t ∧ t.kernelDiscarded = s.kernelDiscarded

/-! ### separable_fir_blur_pass -/

/-- R161, R162: HPASS with its operands in order writes to `TMP`, at `i*W + j`, the packed window sums of every pixel
(where `pack` is defined; elsewhere a word), sets `TVALID`, and changes nothing else but `BUSY`. Words at `W*H` and above
read as before while `TVALID` was 1 and have no value when they were discarded (log entry 26). -/
def Obligations.HpassWritesThePackedRowSums : Prop :=
  ∀ s : State, GeometryOk s → s.flag .kvalid = true → WindowOk s →
    ∃ t : State, exec .hpass s = .next t ∧ t.flag .tvalid = true ∧
      (∀ i j : Nat, i < s.h.toNat → j < s.w.toNat → ∃ v : Word, Memory.read t.tmp (i * s.w.toNat + j) = some v ∧
        ∀ x : Word, pack (num s.draws)
          (rowSums (num s.draws) (imgWord s) s.w.toNat s.radius.toNat (kernelEntry s) i j) = some x → v = x) ∧
      (s.flag .tvalid = true → KeepsFrom (s.w.toNat * s.h.toNat) s.tmp t.tmp) ∧
      (s.flag .tvalid = false → ∀ n : Nat, s.w.toNat * s.h.toNat ≤ n → Memory.read t.tmp n = none) ∧
      KeepsImg s t ∧ KeepsKbuf s t ∧
      KeepsRegisters [] s t ∧ KeepsFlags [.busy, .tvalid] s t ∧ t.flag .busy = false ∧ KeepsHost s t ∧
      t.kernelDiscarded = s.kernelDiscarded

/-- R163: VPASS with its operands in order writes to `IMG`, at `i*W + j`, the packed column sums over `TMP`, and changes
nothing else but `BUSY`. -/
def Obligations.VpassWritesThePackedColumnSums : Prop :=
  ∀ s : State, GeometryOk s → s.flag .kvalid = true → s.flag .tvalid = true → WindowOk s →
    ∃ t : State, exec .vpass s = .next t ∧
      (∀ i j : Nat, i < s.h.toNat → j < s.w.toNat → ∃ v : Word, Memory.read t.img (i * s.w.toNat + j) = some v ∧
        ∀ x : Word, pack (num s.draws) (columnSums (num s.draws) (tmpWord s) s.w.toNat s.h.toNat s.radius.toNat
          (kernelEntry s) i j) = some x → v = x) ∧
      KeepsFrom (s.w.toNat * s.h.toNat) s.img t.img ∧ KeepsTmp s t ∧ KeepsKbuf s t ∧
      KeepsRegisters [] s t ∧ KeepsFlags [.busy] s t ∧ t.flag .busy = false ∧ KeepsHost s t ∧
      t.kernelDiscarded = s.kernelDiscarded

/-- R193, R195, R196, R198: HPASS and VPASS end with GeometryError, else with OperandError; nothing else changes, but
that HPASS leaves `TVALID = 0`. -/
def Obligations.PassErrors : Prop :=
  ∀ (s : State) (i : Instr) (e : CmdError), i = .hpass ∨ i = .vpass →
    (¬ GeometryOk s ∧ e = .geometry ∨
      GeometryOk s ∧ e = .operand ∧
        (s.flag .kvalid = false ∨ i = .vpass ∧ s.flag .tvalid = false ∨ ¬ WindowOk s)) →
    ∃ t : State, exec i s = .next t ∧ EndsWithError e t ∧ KeepsData s t ∧ t.cmd = s.cmd ∧
      t.flag .tvalid = (if i = .hpass then false else s.flag .tvalid) ∧
      KeepsFlags [.busy, .err, .tvalid] s t ∧ KeepsHost s t ∧ t.kernelDiscarded = s.kernelDiscarded

/-- R166, R165, R164: BLUR with a valid sigma, a fitting image and a fitting kernel packs the row sums of every pixel
into a buffer, then the column sums over that buffer into `IMG`, both with the kernel of sigma and the radius
`3 * floor(sigma)`; the scratch has no value afterwards and both validity flags are 0; nothing else changes but `BUSY`,
`HALFLEN` and `KLEN`, which are discarded (log entry 12). Weights at distances of 94906266 and more rest on log entry
25. -/
def Obligations.BlurIsTheTwoPasses : Prop :=
  ∀ (s : State) (radius : Nat) (K : Nat → F64), SigmaOk s → GeometryOk s → CapacityOk s →
    radius = 3 * ⌊toRat s.sigma⌋.toNat → (∀ n : Nat, n ≤ 2 * radius → K n = kernelWeight (num s.draws) s.sigma n) →
    ∃ (t : State) (T : Nat → Word), exec .blur s = .next t ∧
      (∀ i j : Nat, i < s.h.toNat → j < s.w.toNat → ∀ x : Word,
        pack (num s.draws) (rowSums (num s.draws) (imgWord s) s.w.toNat radius K i j) = some x →
          T (i * s.w.toNat + j) = x) ∧
      (∀ i j : Nat, i < s.h.toNat → j < s.w.toNat → ∃ v : Word, Memory.read t.img (i * s.w.toNat + j) = some v ∧
        ∀ x : Word, pack (num s.draws) (columnSums (num s.draws) T s.w.toNat s.h.toNat radius K i j) = some x →
          v = x) ∧
      KeepsFrom (s.w.toNat * s.h.toNat) s.img t.img ∧
      (∀ n : Nat, Memory.read t.tmp n = none ∧ Memory.read t.kbuf n = none) ∧
      t.flag .kvalid = false ∧ t.flag .tvalid = false ∧ KeepsRegisters [.halflen, .klen] s t ∧
      KeepsFlags [.busy, .kvalid, .tvalid] s t ∧ t.flag .busy = false ∧ KeepsHost s t ∧ t.kernelDiscarded = true

/-- R166, R167, R198: BLUR ends with InvalidParameterError when sigma is invalid, else with GeometryError, else with
KernelCapacityError; both validity flags are 0, `HALFLEN` and `KLEN` are discarded (log entry 12) and nothing else
changes, no word of `IMG` among it. -/
def Obligations.BlurErrors : Prop :=
  ∀ (s : State) (e : CmdError),
    (¬ SigmaOk s ∧ e = .invalidParameter ∨ SigmaOk s ∧ ¬ GeometryOk s ∧ e = .geometry ∨
      SigmaOk s ∧ GeometryOk s ∧ ¬ CapacityOk s ∧ e = .kernelCapacity) →
    ∃ t : State, exec .blur s = .next t ∧ EndsWithError e t ∧ KeepsData s t ∧ t.cmd = s.cmd ∧
      t.flag .kvalid = false ∧ t.flag .tvalid = false ∧ KeepsFlags [.busy, .err, .kvalid, .tvalid] s t ∧ KeepsHost s t ∧ t.kernelDiscarded = true

/-- R168: from the same launch state BLUR leaves the same `IMG` as KGEN, a write of `RADIUS`, HPASS and VPASS. The
premise that the window fits is what R125 gives for every valid sigma. Left out: a half-length of `2^31` or more, whose
kernel length would not fit its register (log entry 10). That words which are UNSPECIFIED are equal too is the model's
own: the draws are the same on both sides, for `exec` does not number transactions (log entry 4) and an unwritten word
reads the same throughout a transaction (log entry 3). -/
def Obligations.BlurEqualsKgenHpassVpass : Prop :=
  ∀ (s : State) (radius hl : Nat), SigmaOk s → GeometryOk s → CapacityOk s →
    radius = blurRadius (num s.draws) s.sigma → hl = halfLength (num s.draws) s.sigma →
    2 * hl < 2 ^ 32 → 2 * radius + 1 ≤ 2 * hl - 1 →
      ∃ a b c e : State, exec .kgen s = .next a ∧ exec .hpass { a with radius := BitVec.ofNat 32 radius } = .next b ∧
        exec .vpass b = .next c ∧ exec .blur s = .next e ∧
        ∀ n : Nat, Memory.read e.img n = Memory.read c.img n

/-! ### sharpening_kernel_apply -/

/-- R181 to R183: SHARPEN with a fitting image writes to every interior pixel the three sums of the fixed kernel over
the launch image, truncated to nothing and clamped to nothing, packed; the words above `W*H` are unchanged, `TMP` has no
value, `TVALID` is 0, and nothing else changes but `BUSY`. -/
def Obligations.SharpenWritesTheKernelSums : Prop :=
  ∀ s : State, GeometryOk s →
    ∃ t : State, exec .sharpen s = .next t ∧
      (∀ i j : Nat, 1 ≤ i → i + 2 ≤ s.h.toNat → 1 ≤ j → j + 2 ≤ s.w.toNat →
        Memory.read t.img (i * s.w.toNat + j) = some (packedInts (sharpenChannel (imgWord s) 16 s.w.toNat i j)
          (sharpenChannel (imgWord s) 8 s.w.toNat i j) (sharpenChannel (imgWord s) 0 s.w.toNat i j))) ∧
      KeepsFrom (s.w.toNat * s.h.toNat) s.img t.img ∧ (∀ n : Nat, Memory.read t.tmp n = none) ∧ KeepsKbuf s t ∧
      t.flag .tvalid = false ∧ KeepsRegisters [] s t ∧ KeepsFlags [.busy, .tvalid] s t ∧ t.flag .busy = false ∧
      KeepsHost s t ∧ t.kernelDiscarded = s.kernelDiscarded

/-- R185: after SHARPEN of an image of at least 3 by 3 pixels every border pixel is the word 0. -/
def Obligations.SharpenBlacksTheBorder : Prop :=
  ∀ (s t : State) (i j : Nat), GeometryOk s → exec .sharpen s = .next t → 3 ≤ s.h.toNat → 3 ≤ s.w.toNat →
    i < s.h.toNat → j < s.w.toNat → (i = 0 ∨ i = s.h.toNat - 1 ∨ j = 0 ∨ j = s.w.toNat - 1) →
      Memory.read t.img (i * s.w.toNat + j) = some 0

/-- R186: after SHARPEN of an image with `H < 3` or `W < 3` all `W*H` words are 0 and every other word reads as before
(all of them, when `W*H = 0`), and the command succeeds: `ERR` and `ERRCODE` keep the zeros of the launch. -/
def Obligations.SharpenBlacksASmallImage : Prop :=
  ∀ s : State, GeometryOk s → s.h.toNat < 3 ∨ s.w.toNat < 3 →
    ∃ t : State, exec .sharpen s = .next t ∧ t.flag .err = s.flag .err ∧ t.errcode = s.errcode ∧
      (∀ n : Nat, n < s.w.toNat * s.h.toNat → Memory.read t.img n = some 0) ∧
      KeepsFrom (s.w.toNat * s.h.toNat) s.img t.img

/-- R187: an interior pixel whose four neighbours sum to four times it in each channel is written with its low 24
bits. -/
def Obligations.SharpenKeepsBalancedPixels : Prop :=
  ∀ (s t : State) (i j : Nat), GeometryOk s → exec .sharpen s = .next t →
    1 ≤ i → i + 2 ≤ s.h.toNat → 1 ≤ j → j + 2 ≤ s.w.toNat →
    (∀ shift ∈ [16, 8, 0],
      channel (imgWord s ((i - 1) * s.w.toNat + j)) shift + channel (imgWord s ((i + 1) * s.w.toNat + j)) shift +
        channel (imgWord s (i * s.w.toNat + (j - 1))) shift + channel (imgWord s (i * s.w.toNat + (j + 1))) shift =
          4 * channel (imgWord s (i * s.w.toNat + j)) shift) →
      Memory.read t.img (i * s.w.toNat + j) = some (imgWord s (i * s.w.toNat + j) &&& 0x00FFFFFF#32)

/-- R181, R193: SHARPEN's only error is GeometryError; `TVALID` is 0 and nothing else changes. -/
def Obligations.SharpenGeometryError : Prop :=
  ∀ s : State, ¬ GeometryOk s →
    ∃ t : State, exec .sharpen s = .next t ∧ EndsWithError .geometry t ∧ KeepsData s t ∧ t.cmd = s.cmd ∧
      t.flag .tvalid = false ∧ KeepsFlags [.busy, .err, .tvalid] s t ∧ KeepsHost s t ∧
      t.kernelDiscarded = s.kernelDiscarded

/-! ### Rules about every command -/

/-- R229, R212: every command ends: from every state it answers a next state, with `BUSY = 0`. -/
def Obligations.EveryCommandEnds : Prop :=
  ∀ (i : Instr) (s : State), ∃ t : State, exec i s = .next t ∧ t.flag .busy = false

/-- R196: a command that ends with an error leaves the data state exactly as it was, and changes validity flags only
toward 0. -/
def Obligations.ErrorsLeaveTheDataState : Prop :=
  ∀ (i : Instr) (s t : State), s.flag .err = false → exec i s = .next t → t.flag .err = true →
    KeepsData s t ∧ t.cmd = s.cmd ∧ (t.flag .kvalid = true → s.flag .kvalid = true) ∧
      (t.flag .tvalid = true → s.flag .tvalid = true) ∧ KeepsHost s t

/-- R22 ("Written by: host only") and R26: no command writes `CMD`, `W`, `H`, `SIGMA`, `RADIUS`, `ROW` or `COL`, nor the
capacities and the host's side. -/
def Obligations.CommandsDoNotWriteHostRegisters : Prop :=
  ∀ (i : Instr) (s t : State), exec i s = .next t →
    (∀ r ∈ [Reg.cmd, .w, .h, .sigma, .radius, .row, .col], contents t r = contents s r) ∧ KeepsHost s t

/-- R47, R45: no command changes `IMG` at index `W*H` or above, and UNPACK, PACK, KGEN, FIR1D and HPASS change no word
of it. -/
def Obligations.ImageOutsideThePrefixIsUnchanged : Prop :=
  ∀ (i : Instr) (s t : State), exec i s = .next t →
    KeepsFrom (s.w.toNat * s.h.toNat) s.img t.img ∧
      (i ∈ [Instr.unpack, .pack, .kgen, .fir1dH, .fir1dV, .hpass] → KeepsImg s t)

/-- R31, R202: what a command does to an idle engine depends on no earlier command's error: with any `ERR` and
`ERRCODE` the step is the same. That values which are UNSPECIFIED are the same too is the model's own: the draws are the
same on both sides, for both steps have one draw number (log entry 4). -/
def Obligations.CommandsIgnoreEarlierErrors : Prop :=
  ∀ (s : State) (rest : List HostOp) (c e : Word) (v : Bool),
    s.host = .writeReg 0 (.w32 c) :: rest → s.flag .busy = false →
      step { s.setFlag .err v with errcode := e } = step s

/-- R26, R165: what BLUR leaves in `IMG` and whether it fails depends on none of `RADIUS`, `HALFLEN`, `KLEN`, `TMP`,
`KBUF`, `ROW`, `COL`, `PIX`, `CH_R`, `CH_G`, `CH_B`, `ACC_R`, `ACC_G`, `ACC_B` and the two validity flags: of the
primitives' operands (R45) all but `W`, `H`, `SIGMA` and `IMG`, which BLUR reads. That words of `IMG` which are
UNSPECIFIED (R118, R223) are equal too is the model's own: the draws are the same on both sides, for both uses of `exec`
have one draw number (log entry 4), and an unwritten word reads the same throughout a transaction (log entry 3). -/
def Obligations.BlurIgnoresThePrimitivesOperands : Prop :=
  ∀ (s : State) (radius hl kl row col pix chR chG chB : Word) (accR accG accB : F64) (tmp : Memory 32)
    (kbuf : Memory 64) (k v : Bool),
    ∃ t u : State, exec .blur s = .next t ∧
      exec .blur { (s.setFlag .kvalid k).setFlag .tvalid v with
        radius := radius, halflen := hl, klen := kl, row := row, col := col, pix := pix, chR := chR, chG := chG,
        chB := chB, accR := accR, accG := accG, accB := accB, tmp := tmp, kbuf := kbuf } = .next u ∧
      u.img = t.img ∧ u.errcode = t.errcode ∧ u.status = t.status

/-- R191: SHARPEN "ignores `SIGMA` entirely", and the kernel with it (R35): the same command from a state with another
`SIGMA`, `KBUF`, `KLEN`, `HALFLEN` and `KVALID`, the two lengths discarded or not (log entry 12), leaves the same state
but for those. That pixels which depend on an unwritten word of `IMG`, UNSPECIFIED by R223, are equal too is the model's
own: the draws are the same on both sides, for both uses of `exec` have one draw number (log entry 4), and an unwritten
word reads the same throughout a transaction (log entry 3). -/
def Obligations.SharpenIgnoresSigmaAndKernel : Prop :=
  ∀ (s t : State) (sigma : F64) (kbuf : Memory 64) (hl kl : Word) (k discarded : Bool), exec .sharpen s = .next t →
    exec .sharpen { s.setFlag .kvalid k with
        sigma := sigma, kbuf := kbuf, halflen := hl, klen := kl, kernelDiscarded := discarded } =
      .next { t.setFlag .kvalid k with
        sigma := sigma, kbuf := kbuf, halflen := hl, klen := kl, kernelDiscarded := discarded }

/-- R231: VPASS does not read `IMG`: from states that differ only in `IMG` a VPASS leaves the same words in the image.
That words whose `pack` is UNSPECIFIED (R118), and words that depend on an unwritten entry of `TMP` or `KBUF`, are equal
too is the model's own: the draws are the same on both sides, for both uses of `exec` have one draw number (log entry 4),
and an unwritten entry reads the same throughout a transaction (log entry 3). -/
def Obligations.VpassDoesNotReadTheImage : Prop :=
  ∀ (s : State) (img : Memory 32), GeometryOk s → s.flag .kvalid = true → s.flag .tvalid = true → WindowOk s →
    ∃ t u : State, exec .vpass s = .next t ∧ exec .vpass { s with img := img } = .next u ∧
      ∀ n : Nat, n < s.w.toNat * s.h.toNat → Memory.read u.img n = Memory.read t.img n

/-! ### The invariant -/

/-- The state after reset (R40) meets the invariant, which speaks of the model's own fields too (log entries 1 and 12). -/
def Obligations.ResetMeetsTheInvariant : Prop := Inv State.reset

/-- Every step keeps the invariant: memories canonical and within capacity (R60, R72), `STATUS` idle with zero reserved
bits and `ERR = 1` exactly when `ERRCODE != 0` (R30, R190), the two validity flags meaning what R32 says, from every
state that meets it. That between two transactions the engine is idle rests on the atomic command (log entry 14). -/
def Obligations.StepKeepsTheInvariant : Prop := ∀ s t : State, Inv s → step s = .next t → Inv t

/-! ### Numerics -/

/-- R111: `fadd` of two finite values is their sum rounded once, to nearest, ties to even. -/
def Obligations.AdditionIsCorrectlyRounded : Prop :=
  ∀ (d : Nat) (a b : F64), a.isFinite = true → b.isFinite = true →
    RoundsTo ((toRat a : ℝ) + toRat b) ((num d).fadd a b) ∧ RoundsTo ((toRat a : ℝ) - toRat b) ((num d).fsub a b)

/-- R111: `fmul` of two finite values is their product rounded once. -/
def Obligations.MultiplicationIsCorrectlyRounded : Prop :=
  ∀ (d : Nat) (a b : F64), a.isFinite = true → b.isFinite = true →
    RoundsTo ((toRat a : ℝ) * toRat b) ((num d).fmul a b)

/-- R111: `fdiv` of two finite values, the divisor not zero, is their quotient rounded once. -/
def Obligations.DivisionIsCorrectlyRounded : Prop :=
  ∀ (d : Nat) (a b : F64), a.isFinite = true → b.isFinite = true → toRat b ≠ 0 →
    RoundsTo ((toRat a : ℝ) / toRat b) ((num d).fdiv a b)

/-- R111: `fsqrt` of a finite value that is not negative is its real square root rounded once. -/
def Obligations.SquareRootIsCorrectlyRounded : Prop :=
  ∀ (d : Nat) (a : F64), a.isFinite = true → 0 ≤ toRat a → RoundsTo (Real.sqrt (toRat a : ℝ)) ((num d).fsqrt a)

/-- R111: the special operands: `x/0` for finite non-zero `x` is an infinity; `0/0`, `inf - inf`, `0 * inf` and the
square root of a negative number are NaN; any operation with a NaN operand returns NaN. -/
def Obligations.SpecialOperandsOfTheOperations : Prop :=
  ∀ (d : Nat) (a b : F64),
    (a.isFinite = true → toRat a ≠ 0 → b.isZero = true → ((num d).fdiv a b).isInf = true) ∧
    (a.isZero = true → b.isZero = true → ((num d).fdiv a b).isNaN = true) ∧
    (a.isInf = true → b.isInf = true → (a.sign = b.sign → ((num d).fsub a b).isNaN = true) ∧
      (a.sign ≠ b.sign → ((num d).fadd a b).isNaN = true)) ∧
    (a.isZero = true → b.isInf = true → ((num d).fmul a b).isNaN = true ∧ ((num d).fmul b a).isNaN = true) ∧
    (a.isFinite = true → toRat a < 0 → ((num d).fsqrt a).isNaN = true) ∧
    (a.isNaN = true ∨ b.isNaN = true → ((num d).fadd a b).isNaN = true ∧ ((num d).fsub a b).isNaN = true ∧
      ((num d).fmul a b).isNaN = true ∧ ((num d).fdiv a b).isNaN = true) ∧
    (a.isNaN = true → ((num d).fsqrt a).isNaN = true ∧ ((num d).fceil a).isNaN = true ∧
      ((num d).ffloor a).isNaN = true ∧ ((num d).fexp a).isNaN = true)

/-- R118: `trunc_i32` of a finite value truncates toward zero to a two's complement word when the integer fits 32 bits,
and is UNSPECIFIED in every other case. -/
def Obligations.TruncationIsTowardZero : Prop :=
  ∀ (x : F64) (v : Word), truncI32 x = some v ↔
    x.isFinite = true ∧ -2 ^ 31 ≤ towardZero (toRat x) ∧ towardZero (toRat x) ≤ 2 ^ 31 - 1 ∧
      v = BitVec.ofInt 32 (towardZero (toRat x))

/-- R115: `fceil` and `ffloor` of a finite value are the least integer not below it and the greatest not above it,
exactly, and the value itself when it is integral; of an infinity they are that infinity, of a NaN a NaN; `of_int` is
exact below `2^53`; `to_int` of an integral finite value is the integer it equals. -/
def Obligations.CeilFloorAndOfIntAreExact : Prop :=
  (∀ (d : Nat) (a : F64), a.isFinite = true →
    ((num d).fceil a).isFinite = true ∧ toRat ((num d).fceil a) = ⌈toRat a⌉ ∧
    ((num d).ffloor a).isFinite = true ∧ toRat ((num d).ffloor a) = ⌊toRat a⌋ ∧
    ((∃ z : Int, toRat a = z) → (num d).fceil a = a ∧ (num d).ffloor a = a)) ∧
  (∀ (d : Nat) (a : F64), a.isInf = true → (num d).fceil a = a ∧ (num d).ffloor a = a) ∧
  (∀ (d : Nat) (a : F64), a.isNaN = true → ((num d).fceil a).isNaN = true ∧ ((num d).ffloor a).isNaN = true) ∧
  (∀ z : Int, |z| < 2 ^ 53 → (F64.ofInt z).isFinite = true ∧ toRat (F64.ofInt z) = z) ∧
  ∀ (a : F64) (z : Int), a.isFinite = true → toRat a = z → F64.truncInt a = z

/-- R117: `valid_sigma` is true exactly of the finite values above zero. -/
def Obligations.SigmaTestAcceptsPositiveFiniteValues : Prop :=
  ∀ s : F64, validSigma s = true ↔ s.isFinite = true ∧ 0 < toRat s

/-- R124, R194, R125: `hf` is `fceil(fadd(fmul(5.0, s), 1.0))`, with the patterns of `5.0` and `1.0` written out; for
every valid sigma `hf >= 1.0`, and when `hf` is finite it is the integer `half_length` and the window of a BLUR lies
inside the kernel it generated: `blur_radius = 3 * floor(sigma)` is at most `half_length - 1`. -/
def Obligations.BlurWindowFitsTheKernel : Prop :=
  ∀ (d : Nat) (s : F64),
    halfLengthF (num d) s =
      (num d).fceil ((num d).fadd ((num d).fmul 0x4014000000000000#64 s) 0x3FF0000000000000#64) ∧
    (validSigma s = true →
      F64.le 0x3FF0000000000000#64 (halfLengthF (num d) s) = true ∧ blurRadius (num d) s = 3 * ⌊toRat s⌋.toNat ∧
        ((halfLengthF (num d) s).isFinite = true →
          toRat (halfLengthF (num d) s) = halfLength (num d) s ∧ blurRadius (num d) s + 1 ≤ halfLength (num d) s))

/-- R114 (b), (c), (d): `fexp` is exactly 1.0 at both zeros, `+0.0` at `-inf`, a NaN at a NaN; at a finite value that is
not positive it is finite, not negative and at most 1.0, whichever end of its bracket it is (log entry 7). Where the
exponential underflows to zero it is `+0.0` (R148); -1250 is the argument of sigma 0.02, the bound R148 names (log entry 7). -/
def Obligations.FexpExactPointsAndRange : Prop :=
  fexp 0 = F64.one ∧ fexp 0x8000000000000000 = F64.one ∧ fexp 0xFFF0000000000000 = 0 ∧
    (∀ x : F64, x.isNaN = true → (fexp x).isNaN = true) ∧
    (∀ x : F64, x.isFinite = true → toRat x ≤ 0 →
      (fexp x).isFinite = true ∧ 0 ≤ toRat (fexp x) ∧ toRat (fexp x) ≤ 1) ∧
    ∀ x : F64, x.isFinite = true → toRat x ≤ -1250 → fexp x = 0

/-- R114 (d): `fexp` is non-decreasing on the finite values that are not positive, whatever the free threshold that
decides between the ends of a bracket (log entry 7). -/
def Obligations.FexpIsNonDecreasing : Prop :=
  ∀ x y : F64, x.isFinite = true → y.isFinite = true → toRat x ≤ toRat y → toRat y ≤ 0 →
    toRat (fexp x) ≤ toRat (fexp y)

/-- R114 (e): at a finite value below zero `fexp` is one of two neighbouring binary64 values that bracket the real
exponential. Which of the two is a free value, but from -1250 down, where it is `+0.0` (R148, log entry 7). -/
def Obligations.FexpBracketsTheExponential : Prop :=
  ∀ x : F64, x.isFinite = true → toRat x < 0 →
    ∃ n : Nat, n < F64.one.toNat ∧
      (toRat (F64.ofSignBits false n) : ℝ) ≤ Real.exp (toRat x : ℝ) ∧
      Real.exp (toRat x : ℝ) ≤ (toRat (F64.ofSignBits false (n + 1)) : ℝ) ∧
      (fexp x = F64.ofSignBits false n ∨ fexp x = F64.ofSignBits false (n + 1))
end

