-- ==== Sys2Proof/Laws/Memory.lean ====
section
/-!
SUPPORT. The laws of a memory: read after write, and that every operation keeps the canonical form and the bound of the
indices.
-/
namespace Sys2Proof.Machine

variable {n : Nat}

@[simp] theorem Memory.read_nil (i : Nat) : Memory.read ([] : Memory n) i = none := rfl

@[simp] theorem Memory.read_cons (a : Nat) (x : BitVec n) (m : Memory n) (i : Nat) :
    Memory.read ((a, x) :: m) i = if a = i then some x else Memory.read m i := rfl

/-- A read of the entry just written returns what was written. -/
@[simp] theorem Memory.read_write_same (m : Memory n) (i : Nat) (v : BitVec n) :
    Memory.read (Memory.write m i v) i = some v := by
  induction m with
  | nil => simp [Memory.write]
  | cons e m ih =>
    obtain ⟨a, x⟩ := e
    simp only [Memory.write]
    split
    · simp
    · split
      · simp
      · rename_i h1 h2
        simp [Ne.symm h2, ih]

/-- A write leaves every other entry alone. -/
theorem Memory.read_write_ne (m : Memory n) {i j : Nat} (v : BitVec n) (h : j ≠ i) :
    Memory.read (Memory.write m i v) j = Memory.read m j := by
  induction m with
  | nil => simp [Memory.write, Ne.symm h]
  | cons e m ih =>
    obtain ⟨a, x⟩ := e
    simp only [Memory.write]
    split
    · simp [Ne.symm h]
    · split
      · rename_i h1 h2
        subst h2
        simp [Ne.symm h]
      · simp [ih]

/-- The canonical form, entry by entry. -/
theorem Memory.wf_cons (e : Nat × BitVec n) (m : Memory n) :
    Memory.wf (e :: m) = true ↔ (∀ b ∈ m, e.1 < b.1) ∧ Memory.wf m = true := by
  simp [Memory.wf]

theorem Memory.mem_write {m : Memory n} {i : Nat} {v : BitVec n} {e : Nat × BitVec n}
    (h : e ∈ Memory.write m i v) : e = (i, v) ∨ e ∈ m := by
  induction m with
  | nil => simpa [Memory.write] using h
  | cons c m ih =>
    obtain ⟨a, x⟩ := c
    simp only [Memory.write] at h
    split at h
    · simpa using h
    · split at h
      · rcases List.mem_cons.1 h with h | h
        · exact .inl h
        · exact .inr (List.mem_cons_of_mem _ h)
      · rcases List.mem_cons.1 h with h | h
        · exact .inr (h ▸ List.mem_cons_self)
        · rcases ih h with h | h
          · exact .inl h
          · exact .inr (List.mem_cons_of_mem _ h)

/-- A write keeps the canonical form. -/
theorem Memory.write_wf {m : Memory n} (i : Nat) (v : BitVec n) (h : Memory.wf m = true) :
    Memory.wf (Memory.write m i v) = true := by
  induction m with
  | nil => simp [Memory.write, Memory.wf]
  | cons c m ih =>
    obtain ⟨a, x⟩ := c
    obtain ⟨hlt, hm⟩ := (Memory.wf_cons _ _).1 h
    simp only [Memory.write]
    split
    · rename_i hia
      refine (Memory.wf_cons _ _).2 ⟨?_, h⟩
      intro b hb
      rcases List.mem_cons.1 hb with rfl | hb
      · exact hia
      · exact lt_trans hia (hlt b hb)
    · split
      · rename_i _ hia
        subst hia
        exact (Memory.wf_cons _ _).2 ⟨hlt, hm⟩
      · rename_i h1 h2
        refine (Memory.wf_cons _ _).2 ⟨?_, ih hm⟩
        intro b hb
        rcases Memory.mem_write hb with rfl | hb
        · simp only; omega
        · exact hlt b hb

/-- A write inside the capacity stays inside it. -/
theorem Memory.write_within {m : Memory n} {i k : Nat} (v : BitVec n) (h : Memory.within m k = true) (hi : i < k) :
    Memory.within (Memory.write m i v) k = true := by
  simp only [Memory.within, List.all_eq_true, decide_eq_true_eq] at *
  intro e he
  rcases Memory.mem_write he with rfl | he
  · exact hi
  · exact h e he

/-! ### Consecutive entries -/

theorem read_numbered (vs : List (BitVec n)) (k i : Nat) :
    Memory.read (numbered k vs) i = if k ≤ i then vs[i - k]? else none := by
  induction vs generalizing k with
  | nil => simp [numbered]
  | cons v vs ih =>
    simp only [numbered, Memory.read_cons, ih]
    by_cases hk : k = i
    · subst hk; simp
    · by_cases hlt : k ≤ i
      · have h1 : k + 1 ≤ i := by omega
        have h2 : i - k = (i - (k + 1)) + 1 := by omega
        simp [hk, hlt, h1, h2]
      · have h1 : ¬ k + 1 ≤ i := by omega
        simp [hk, hlt, h1]

theorem mem_numbered {vs : List (BitVec n)} {k : Nat} {e : Nat × BitVec n} (h : e ∈ numbered k vs) :
    k ≤ e.1 ∧ e.1 < k + vs.length := by
  induction vs generalizing k with
  | nil => simp [numbered] at h
  | cons v vs ih =>
    rcases List.mem_cons.1 h with rfl | h
    · simp
    · have := ih h
      simp only [List.length_cons]
      omega

theorem numbered_wf (vs : List (BitVec n)) (k : Nat) : Memory.wf (numbered k vs) = true := by
  induction vs generalizing k with
  | nil => rfl
  | cons v vs ih =>
    refine (Memory.wf_cons _ _).2 ⟨fun b hb => ?_, ih (k + 1)⟩
    have := (mem_numbered hb).1
    simp only
    omega

theorem Memory.read_append (m m' : Memory n) (i : Nat) :
    Memory.read (m ++ m') i = (Memory.read m i).or (Memory.read m' i) := by
  induction m with
  | nil => simp
  | cons e m ih =>
    obtain ⟨a, x⟩ := e
    simp only [List.cons_append, Memory.read_cons, ih]
    split <;> simp

theorem Memory.read_filter_ge (m : Memory n) {k i : Nat} (h : k ≤ i) :
    Memory.read (m.filter fun e => decide (k ≤ e.1)) i = Memory.read m i := by
  induction m with
  | nil => rfl
  | cons e m ih =>
    obtain ⟨a, x⟩ := e
    by_cases ha : k ≤ a
    · simp [ha, ih]
    · have : a ≠ i := by omega
      simp [ha, ih, this]

/-- A prefix write defines every entry of the prefix. -/
theorem Memory.read_writePrefix_lt (m : Memory n) (vs : List (BitVec n)) {i : Nat} (h : i < vs.length) :
    Memory.read (Memory.writePrefix m vs) i = some vs[i] := by
  simp [Memory.writePrefix, Memory.read_append, read_numbered, h]

/-- A prefix write leaves every entry above the prefix alone. -/
theorem Memory.read_writePrefix_ge (m : Memory n) (vs : List (BitVec n)) {i : Nat} (h : vs.length ≤ i) :
    Memory.read (Memory.writePrefix m vs) i = Memory.read m i := by
  simp [Memory.writePrefix, Memory.read_append, read_numbered, h, Memory.read_filter_ge]

/-- A prefix write keeps the canonical form. -/
theorem Memory.writePrefix_wf {m : Memory n} (vs : List (BitVec n)) (h : Memory.wf m = true) :
    Memory.wf (Memory.writePrefix m vs) = true := by
  have h1 := numbered_wf vs 0
  simp only [Memory.wf, decide_eq_true_eq] at h h1 ⊢
  refine List.pairwise_append.2 ⟨h1, h.filter _, fun a ha b hb => ?_⟩
  have := (mem_numbered ha).2
  have hb := (List.mem_filter.1 hb).2
  simp only [decide_eq_true_eq] at hb
  omega

/-- A prefix write inside the capacity stays inside it. -/
theorem Memory.writePrefix_within {m : Memory n} {vs : List (BitVec n)} {k : Nat} (h : Memory.within m k = true)
    (hv : vs.length ≤ k) : Memory.within (Memory.writePrefix m vs) k = true := by
  simp only [Memory.within, List.all_eq_true, decide_eq_true_eq] at *
  intro e he
  rcases List.mem_append.1 he with he | he
  · have := (mem_numbered he).2
    omega
  · exact h e (List.mem_filter.1 he).1

/-- What a prefix write defines. -/
theorem Memory.writePrefix_definedBelow (m : Memory n) (vs : List (BitVec n)) {k : Nat} (h : k ≤ vs.length) :
    Memory.definedBelow (Memory.writePrefix m vs) k = true := by
  simp only [Memory.definedBelow, List.all_eq_true, List.mem_range]
  intro i hi
  simp [Memory.read_writePrefix_lt m vs (show i < vs.length by omega)]

@[simp] theorem Memory.observed_true (m : Memory n) : Memory.observed true m = m := rfl

@[simp] theorem Memory.observed_false (m : Memory n) : Memory.observed false m = [] := rfl

/-- What an observer sees of a canonical memory is canonical. -/
theorem Memory.observed_wf {m : Memory n} (valid : Bool) (h : Memory.wf m = true) :
    Memory.wf (Memory.observed valid m) = true := by
  cases valid
  · rfl
  · exact h

/-- What an observer sees of a memory inside its capacity is inside it. -/
theorem Memory.observed_within {m : Memory n} {k : Nat} (valid : Bool) (h : Memory.within m k = true) :
    Memory.within (Memory.observed valid m) k = true := by
  cases valid
  · rfl
  · exact h

/-- Above its prefix a memory validated anew holds what it held while its flag was 1, and nothing after that. -/
theorem Memory.read_writePrefix_observed_ge (valid : Bool) (m : Memory n) (vs : List (BitVec n)) {i : Nat}
    (h : vs.length ≤ i) :
    Memory.read (Memory.writePrefix (Memory.observed valid m) vs) i = if valid then Memory.read m i else none := by
  rw [Memory.read_writePrefix_ge _ vs h]
  cases valid <;> rfl

/-- `definedBelow` says what its name says. -/
theorem Memory.definedBelow_iff (m : Memory n) (k : Nat) :
    Memory.definedBelow m k = true ↔ ∀ i < k, ∃ v, Memory.read m i = some v := by
  simp [Memory.definedBelow, Option.isSome_iff_exists]

/-- A memory agrees with itself. -/
@[simp] theorem KeepsFrom.refl (k : Nat) (m : Memory n) : KeepsFrom k m m := fun _ _ => rfl

/-- A prefix write is seen below its length only. -/
theorem KeepsFrom.writePrefix (m : Memory n) (vs : List (BitVec n)) :
    KeepsFrom vs.length m (Memory.writePrefix m vs) := fun _ h => Memory.read_writePrefix_ge m vs h

end Sys2Proof.Machine
end

