-- ==== Sys2Proof/Laws/State.lean ====
section
/-!
SUPPORT. The fields of `STATUS` after a write of one of them, and the fields of the state after each named update.
-/
namespace Sys2Proof.Machine

/-! ### STATUS -/

theorem statusFlag_setStatusFlag (st : Word) (f g : Flag) (v : Bool) :
    statusFlag (setStatusFlag st f v) g = if g = f then v else statusFlag st g := by
  cases f <;> cases g <;> cases v <;> simp [statusFlag, setStatusFlag, Flag.bit]

/-- A written field reads as written. -/
@[simp] theorem statusFlag_setStatusFlag_same (st : Word) (f : Flag) (v : Bool) :
    statusFlag (setStatusFlag st f v) f = v := by simp [statusFlag_setStatusFlag]

/-- A field reads the same after a write of another. -/
theorem statusFlag_setStatusFlag_ne (st : Word) {f g : Flag} (v : Bool) (h : g ≠ f) :
    statusFlag (setStatusFlag st f v) g = statusFlag st g := by simp [statusFlag_setStatusFlag, h]

/-- Writes of two different fields commute. -/
theorem setStatusFlag_comm (st : Word) {f g : Flag} (v w : Bool) (h : f ≠ g) :
    setStatusFlag (setStatusFlag st f v) g w = setStatusFlag (setStatusFlag st g w) f v := by
  have hdisj : (1#32 <<< f.bit) &&& (1#32 <<< g.bit) = 0#32 := by revert h; cases f <;> cases g <;> decide
  apply BitVec.eq_of_getLsbD_eq
  intro i hi
  have hbit : ((1#32 <<< f.bit).getLsbD i && (1#32 <<< g.bit).getLsbD i) = false := by
    rw [← BitVec.getLsbD_and, hdisj, BitVec.getLsbD_zero]
  unfold setStatusFlag
  revert hbit
  cases v <;> cases w <;>
    simp only [Bool.false_eq_true, if_false, if_true, BitVec.getLsbD_or, BitVec.getLsbD_and, BitVec.getLsbD_not, hi,
      decide_true, Bool.true_and] <;>
    cases (1#32 <<< f.bit).getLsbD i <;> cases (1#32 <<< g.bit).getLsbD i <;> simp

/-- Writes of two different flags commute. -/
theorem setFlag_comm (s : State) {f g : Flag} (v w : Bool) (h : f ≠ g) :
    (s.setFlag f v).setFlag g w = (s.setFlag g w).setFlag f v := by
  simp only [State.setFlag, setStatusFlag_comm s.status v w h]

/-- No write of a field touches a reserved bit. -/
@[simp] theorem getLsbD_setStatusFlag_reserved (st : Word) (f : Flag) (v : Bool) {b : Nat} (h : 4 ≤ b) :
    (setStatusFlag st f v).getLsbD b = st.getLsbD b := by
  have hb : b ≠ f.bit := by cases f <;> simp [Flag.bit] <;> omega
  by_cases hw : b < 32
  · have hs : (1#32 <<< f.bit).getLsbD b = false := by
      simp only [BitVec.getLsbD_shiftLeft, hw, decide_true, Bool.true_and]
      by_cases hlt : b < f.bit
      · simp [hlt]
      · have : b - f.bit ≠ 0 := by omega
        simp [BitVec.getLsbD_one, this]
    cases v
    · simp only [setStatusFlag, Bool.false_eq_true, if_false, BitVec.getLsbD_and, BitVec.getLsbD_not, hs, hw,
        decide_true, Bool.not_false, Bool.and_true]
    · simp only [setStatusFlag, if_true, BitVec.getLsbD_or, hs, Bool.or_false]
  · rw [BitVec.getLsbD_of_ge _ _ (by omega), BitVec.getLsbD_of_ge _ _ (by omega)]

@[simp] theorem flag_setFlag_same (s : State) (f : Flag) (v : Bool) : (s.setFlag f v).flag f = v := by
  simp [State.flag, State.setFlag]

theorem flag_setFlag_ne (s : State) {f g : Flag} (v : Bool) (h : g ≠ f) : (s.setFlag f v).flag g = s.flag g := by
  simp [State.flag, State.setFlag, statusFlag_setStatusFlag_ne _ v h]

theorem flag_setFlag (s : State) (f g : Flag) (v : Bool) :
    (s.setFlag f v).flag g = if g = f then v else s.flag g := by
  simp [State.flag, State.setFlag, statusFlag_setStatusFlag]

/-- A command's end clears `BUSY` and no other field. -/
theorem flag_endCommand (s : State) (g : Flag) : (endCommand s).flag g = if g = .busy then false else s.flag g := by
  simp [endCommand, flag_setFlag]

/-- An error sets `ERR`, clears `BUSY` and no other field. -/
theorem flag_raiseError (e : CmdError) (s : State) (g : Flag) :
    (raiseError e s).flag g = if g = .busy then false else if g = .err then true else s.flag g := by
  change statusFlag (setStatusFlag (setStatusFlag s.status .err true) .busy false) g = _
  simp only [statusFlag_setStatusFlag]
  rfl

/-- The start of a command sets `BUSY`, clears `ERR` and no other field. -/
theorem flag_issueCommand (c : Word) (s : State) (g : Flag) :
    (issueCommand c s).flag g = if g = .err then false else if g = .busy then true else s.flag g := by
  change statusFlag (setStatusFlag (setStatusFlag s.status .busy true) .err false) g = _
  simp only [statusFlag_setStatusFlag]
  rfl

theorem flag_discardKernel (s : State) (g : Flag) :
    (discardKernel s).flag g = if g = .kvalid then false else s.flag g := by
  have : (discardKernel s).flag g = (s.setFlag .kvalid false).flag g := rfl
  rw [this, flag_setFlag]

theorem flag_discardTmp (s : State) (g : Flag) :
    (discardTmp s).flag g = if g = .tvalid then false else s.flag g := by
  simp [discardTmp, flag_setFlag]

/-! ### The fields after each named update -/

@[simp] theorem setFlag_cmd (s : State) (f : Flag) (v : Bool) : (s.setFlag f v).cmd = s.cmd := rfl
@[simp] theorem setFlag_status (s : State) (f : Flag) (v : Bool) : (s.setFlag f v).status = setStatusFlag s.status f v := rfl
@[simp] theorem setFlag_errcode (s : State) (f : Flag) (v : Bool) : (s.setFlag f v).errcode = s.errcode := rfl
@[simp] theorem setFlag_w (s : State) (f : Flag) (v : Bool) : (s.setFlag f v).w = s.w := rfl
@[simp] theorem setFlag_h (s : State) (f : Flag) (v : Bool) : (s.setFlag f v).h = s.h := rfl
@[simp] theorem setFlag_sigma (s : State) (f : Flag) (v : Bool) : (s.setFlag f v).sigma = s.sigma := rfl
@[simp] theorem setFlag_radius (s : State) (f : Flag) (v : Bool) : (s.setFlag f v).radius = s.radius := rfl
@[simp] theorem setFlag_halflen (s : State) (f : Flag) (v : Bool) : (s.setFlag f v).halflen = s.halflen := rfl
@[simp] theorem setFlag_klen (s : State) (f : Flag) (v : Bool) : (s.setFlag f v).klen = s.klen := rfl
@[simp] theorem setFlag_row (s : State) (f : Flag) (v : Bool) : (s.setFlag f v).row = s.row := rfl
@[simp] theorem setFlag_col (s : State) (f : Flag) (v : Bool) : (s.setFlag f v).col = s.col := rfl
@[simp] theorem setFlag_pix (s : State) (f : Flag) (v : Bool) : (s.setFlag f v).pix = s.pix := rfl
@[simp] theorem setFlag_chR (s : State) (f : Flag) (v : Bool) : (s.setFlag f v).chR = s.chR := rfl
@[simp] theorem setFlag_chG (s : State) (f : Flag) (v : Bool) : (s.setFlag f v).chG = s.chG := rfl
@[simp] theorem setFlag_chB (s : State) (f : Flag) (v : Bool) : (s.setFlag f v).chB = s.chB := rfl
@[simp] theorem setFlag_accR (s : State) (f : Flag) (v : Bool) : (s.setFlag f v).accR = s.accR := rfl
@[simp] theorem setFlag_accG (s : State) (f : Flag) (v : Bool) : (s.setFlag f v).accG = s.accG := rfl
@[simp] theorem setFlag_accB (s : State) (f : Flag) (v : Bool) : (s.setFlag f v).accB = s.accB := rfl
@[simp] theorem setFlag_img (s : State) (f : Flag) (v : Bool) : (s.setFlag f v).img = s.img := rfl
@[simp] theorem setFlag_tmp (s : State) (f : Flag) (v : Bool) : (s.setFlag f v).tmp = s.tmp := rfl
@[simp] theorem setFlag_kbuf (s : State) (f : Flag) (v : Bool) : (s.setFlag f v).kbuf = s.kbuf := rfl
@[simp] theorem setFlag_cap (s : State) (f : Flag) (v : Bool) : (s.setFlag f v).cap = s.cap := rfl
@[simp] theorem setFlag_kernelDiscarded (s : State) (f : Flag) (v : Bool) : (s.setFlag f v).kernelDiscarded = s.kernelDiscarded := rfl
@[simp] theorem setFlag_draws (s : State) (f : Flag) (v : Bool) : (s.setFlag f v).draws = s.draws := rfl
@[simp] theorem setFlag_host (s : State) (f : Flag) (v : Bool) : (s.setFlag f v).host = s.host := rfl
@[simp] theorem setFlag_answer (s : State) (f : Flag) (v : Bool) : (s.setFlag f v).answer = s.answer := rfl

@[simp] theorem endCommand_cmd (s : State) : (endCommand s).cmd = s.cmd := rfl
@[simp] theorem endCommand_status (s : State) : (endCommand s).status = setStatusFlag s.status .busy false := rfl
@[simp] theorem endCommand_errcode (s : State) : (endCommand s).errcode = s.errcode := rfl
@[simp] theorem endCommand_w (s : State) : (endCommand s).w = s.w := rfl
@[simp] theorem endCommand_h (s : State) : (endCommand s).h = s.h := rfl
@[simp] theorem endCommand_sigma (s : State) : (endCommand s).sigma = s.sigma := rfl
@[simp] theorem endCommand_radius (s : State) : (endCommand s).radius = s.radius := rfl
@[simp] theorem endCommand_halflen (s : State) : (endCommand s).halflen = s.halflen := rfl
@[simp] theorem endCommand_klen (s : State) : (endCommand s).klen = s.klen := rfl
@[simp] theorem endCommand_row (s : State) : (endCommand s).row = s.row := rfl
@[simp] theorem endCommand_col (s : State) : (endCommand s).col = s.col := rfl
@[simp] theorem endCommand_pix (s : State) : (endCommand s).pix = s.pix := rfl
@[simp] theorem endCommand_chR (s : State) : (endCommand s).chR = s.chR := rfl
@[simp] theorem endCommand_chG (s : State) : (endCommand s).chG = s.chG := rfl
@[simp] theorem endCommand_chB (s : State) : (endCommand s).chB = s.chB := rfl
@[simp] theorem endCommand_accR (s : State) : (endCommand s).accR = s.accR := rfl
@[simp] theorem endCommand_accG (s : State) : (endCommand s).accG = s.accG := rfl
@[simp] theorem endCommand_accB (s : State) : (endCommand s).accB = s.accB := rfl
@[simp] theorem endCommand_img (s : State) : (endCommand s).img = s.img := rfl
@[simp] theorem endCommand_tmp (s : State) : (endCommand s).tmp = s.tmp := rfl
@[simp] theorem endCommand_kbuf (s : State) : (endCommand s).kbuf = s.kbuf := rfl
@[simp] theorem endCommand_cap (s : State) : (endCommand s).cap = s.cap := rfl
@[simp] theorem endCommand_kernelDiscarded (s : State) : (endCommand s).kernelDiscarded = s.kernelDiscarded := rfl
@[simp] theorem endCommand_draws (s : State) : (endCommand s).draws = s.draws := rfl
@[simp] theorem endCommand_host (s : State) : (endCommand s).host = s.host := rfl
@[simp] theorem endCommand_answer (s : State) : (endCommand s).answer = s.answer := rfl

@[simp] theorem raiseError_cmd (e : CmdError) (s : State) : (raiseError e s).cmd = s.cmd := rfl
@[simp] theorem raiseError_status (e : CmdError) (s : State) : (raiseError e s).status = setStatusFlag (setStatusFlag s.status .err true) .busy false := rfl
@[simp] theorem raiseError_errcode (e : CmdError) (s : State) : (raiseError e s).errcode = errorCode e := rfl
@[simp] theorem raiseError_w (e : CmdError) (s : State) : (raiseError e s).w = s.w := rfl
@[simp] theorem raiseError_h (e : CmdError) (s : State) : (raiseError e s).h = s.h := rfl
@[simp] theorem raiseError_sigma (e : CmdError) (s : State) : (raiseError e s).sigma = s.sigma := rfl
@[simp] theorem raiseError_radius (e : CmdError) (s : State) : (raiseError e s).radius = s.radius := rfl
@[simp] theorem raiseError_halflen (e : CmdError) (s : State) : (raiseError e s).halflen = s.halflen := rfl
@[simp] theorem raiseError_klen (e : CmdError) (s : State) : (raiseError e s).klen = s.klen := rfl
@[simp] theorem raiseError_row (e : CmdError) (s : State) : (raiseError e s).row = s.row := rfl
@[simp] theorem raiseError_col (e : CmdError) (s : State) : (raiseError e s).col = s.col := rfl
@[simp] theorem raiseError_pix (e : CmdError) (s : State) : (raiseError e s).pix = s.pix := rfl
@[simp] theorem raiseError_chR (e : CmdError) (s : State) : (raiseError e s).chR = s.chR := rfl
@[simp] theorem raiseError_chG (e : CmdError) (s : State) : (raiseError e s).chG = s.chG := rfl
@[simp] theorem raiseError_chB (e : CmdError) (s : State) : (raiseError e s).chB = s.chB := rfl
@[simp] theorem raiseError_accR (e : CmdError) (s : State) : (raiseError e s).accR = s.accR := rfl
@[simp] theorem raiseError_accG (e : CmdError) (s : State) : (raiseError e s).accG = s.accG := rfl
@[simp] theorem raiseError_accB (e : CmdError) (s : State) : (raiseError e s).accB = s.accB := rfl
@[simp] theorem raiseError_img (e : CmdError) (s : State) : (raiseError e s).img = s.img := rfl
@[simp] theorem raiseError_tmp (e : CmdError) (s : State) : (raiseError e s).tmp = s.tmp := rfl
@[simp] theorem raiseError_kbuf (e : CmdError) (s : State) : (raiseError e s).kbuf = s.kbuf := rfl
@[simp] theorem raiseError_cap (e : CmdError) (s : State) : (raiseError e s).cap = s.cap := rfl
@[simp] theorem raiseError_kernelDiscarded (e : CmdError) (s : State) : (raiseError e s).kernelDiscarded = s.kernelDiscarded := rfl
@[simp] theorem raiseError_draws (e : CmdError) (s : State) : (raiseError e s).draws = s.draws := rfl
@[simp] theorem raiseError_host (e : CmdError) (s : State) : (raiseError e s).host = s.host := rfl
@[simp] theorem raiseError_answer (e : CmdError) (s : State) : (raiseError e s).answer = s.answer := rfl

@[simp] theorem issueCommand_cmd (c : Word) (s : State) : (issueCommand c s).cmd = c := rfl
@[simp] theorem issueCommand_status (c : Word) (s : State) : (issueCommand c s).status = setStatusFlag (setStatusFlag s.status .busy true) .err false := rfl
@[simp] theorem issueCommand_errcode (c : Word) (s : State) : (issueCommand c s).errcode = 0 := rfl
@[simp] theorem issueCommand_w (c : Word) (s : State) : (issueCommand c s).w = s.w := rfl
@[simp] theorem issueCommand_h (c : Word) (s : State) : (issueCommand c s).h = s.h := rfl
@[simp] theorem issueCommand_sigma (c : Word) (s : State) : (issueCommand c s).sigma = s.sigma := rfl
@[simp] theorem issueCommand_radius (c : Word) (s : State) : (issueCommand c s).radius = s.radius := rfl
@[simp] theorem issueCommand_halflen (c : Word) (s : State) : (issueCommand c s).halflen = s.halflen := rfl
@[simp] theorem issueCommand_klen (c : Word) (s : State) : (issueCommand c s).klen = s.klen := rfl
@[simp] theorem issueCommand_row (c : Word) (s : State) : (issueCommand c s).row = s.row := rfl
@[simp] theorem issueCommand_col (c : Word) (s : State) : (issueCommand c s).col = s.col := rfl
@[simp] theorem issueCommand_pix (c : Word) (s : State) : (issueCommand c s).pix = s.pix := rfl
@[simp] theorem issueCommand_chR (c : Word) (s : State) : (issueCommand c s).chR = s.chR := rfl
@[simp] theorem issueCommand_chG (c : Word) (s : State) : (issueCommand c s).chG = s.chG := rfl
@[simp] theorem issueCommand_chB (c : Word) (s : State) : (issueCommand c s).chB = s.chB := rfl
@[simp] theorem issueCommand_accR (c : Word) (s : State) : (issueCommand c s).accR = s.accR := rfl
@[simp] theorem issueCommand_accG (c : Word) (s : State) : (issueCommand c s).accG = s.accG := rfl
@[simp] theorem issueCommand_accB (c : Word) (s : State) : (issueCommand c s).accB = s.accB := rfl
@[simp] theorem issueCommand_img (c : Word) (s : State) : (issueCommand c s).img = s.img := rfl
@[simp] theorem issueCommand_tmp (c : Word) (s : State) : (issueCommand c s).tmp = s.tmp := rfl
@[simp] theorem issueCommand_kbuf (c : Word) (s : State) : (issueCommand c s).kbuf = s.kbuf := rfl
@[simp] theorem issueCommand_cap (c : Word) (s : State) : (issueCommand c s).cap = s.cap := rfl
@[simp] theorem issueCommand_kernelDiscarded (c : Word) (s : State) : (issueCommand c s).kernelDiscarded = s.kernelDiscarded := rfl
@[simp] theorem issueCommand_draws (c : Word) (s : State) : (issueCommand c s).draws = s.draws := rfl
@[simp] theorem issueCommand_host (c : Word) (s : State) : (issueCommand c s).host = s.host := rfl
@[simp] theorem issueCommand_answer (c : Word) (s : State) : (issueCommand c s).answer = s.answer := rfl

@[simp] theorem discardKernel_cmd (s : State) : (discardKernel s).cmd = s.cmd := rfl
@[simp] theorem discardKernel_status (s : State) : (discardKernel s).status = setStatusFlag s.status .kvalid false := rfl
@[simp] theorem discardKernel_errcode (s : State) : (discardKernel s).errcode = s.errcode := rfl
@[simp] theorem discardKernel_w (s : State) : (discardKernel s).w = s.w := rfl
@[simp] theorem discardKernel_h (s : State) : (discardKernel s).h = s.h := rfl
@[simp] theorem discardKernel_sigma (s : State) : (discardKernel s).sigma = s.sigma := rfl
@[simp] theorem discardKernel_radius (s : State) : (discardKernel s).radius = s.radius := rfl
@[simp] theorem discardKernel_halflen (s : State) : (discardKernel s).halflen = s.halflen := rfl
@[simp] theorem discardKernel_klen (s : State) : (discardKernel s).klen = s.klen := rfl
@[simp] theorem discardKernel_row (s : State) : (discardKernel s).row = s.row := rfl
@[simp] theorem discardKernel_col (s : State) : (discardKernel s).col = s.col := rfl
@[simp] theorem discardKernel_pix (s : State) : (discardKernel s).pix = s.pix := rfl
@[simp] theorem discardKernel_chR (s : State) : (discardKernel s).chR = s.chR := rfl
@[simp] theorem discardKernel_chG (s : State) : (discardKernel s).chG = s.chG := rfl
@[simp] theorem discardKernel_chB (s : State) : (discardKernel s).chB = s.chB := rfl
@[simp] theorem discardKernel_accR (s : State) : (discardKernel s).accR = s.accR := rfl
@[simp] theorem discardKernel_accG (s : State) : (discardKernel s).accG = s.accG := rfl
@[simp] theorem discardKernel_accB (s : State) : (discardKernel s).accB = s.accB := rfl
@[simp] theorem discardKernel_img (s : State) : (discardKernel s).img = s.img := rfl
@[simp] theorem discardKernel_tmp (s : State) : (discardKernel s).tmp = s.tmp := rfl
@[simp] theorem discardKernel_kbuf (s : State) : (discardKernel s).kbuf = s.kbuf := rfl
@[simp] theorem discardKernel_cap (s : State) : (discardKernel s).cap = s.cap := rfl
@[simp] theorem discardKernel_kernelDiscarded (s : State) : (discardKernel s).kernelDiscarded = true := rfl
@[simp] theorem discardKernel_draws (s : State) : (discardKernel s).draws = s.draws := rfl
@[simp] theorem discardKernel_host (s : State) : (discardKernel s).host = s.host := rfl
@[simp] theorem discardKernel_answer (s : State) : (discardKernel s).answer = s.answer := rfl

@[simp] theorem discardTmp_cmd (s : State) : (discardTmp s).cmd = s.cmd := rfl
@[simp] theorem discardTmp_status (s : State) : (discardTmp s).status = setStatusFlag s.status .tvalid false := rfl
@[simp] theorem discardTmp_errcode (s : State) : (discardTmp s).errcode = s.errcode := rfl
@[simp] theorem discardTmp_w (s : State) : (discardTmp s).w = s.w := rfl
@[simp] theorem discardTmp_h (s : State) : (discardTmp s).h = s.h := rfl
@[simp] theorem discardTmp_sigma (s : State) : (discardTmp s).sigma = s.sigma := rfl
@[simp] theorem discardTmp_radius (s : State) : (discardTmp s).radius = s.radius := rfl
@[simp] theorem discardTmp_halflen (s : State) : (discardTmp s).halflen = s.halflen := rfl
@[simp] theorem discardTmp_klen (s : State) : (discardTmp s).klen = s.klen := rfl
@[simp] theorem discardTmp_row (s : State) : (discardTmp s).row = s.row := rfl
@[simp] theorem discardTmp_col (s : State) : (discardTmp s).col = s.col := rfl
@[simp] theorem discardTmp_pix (s : State) : (discardTmp s).pix = s.pix := rfl
@[simp] theorem discardTmp_chR (s : State) : (discardTmp s).chR = s.chR := rfl
@[simp] theorem discardTmp_chG (s : State) : (discardTmp s).chG = s.chG := rfl
@[simp] theorem discardTmp_chB (s : State) : (discardTmp s).chB = s.chB := rfl
@[simp] theorem discardTmp_accR (s : State) : (discardTmp s).accR = s.accR := rfl
@[simp] theorem discardTmp_accG (s : State) : (discardTmp s).accG = s.accG := rfl
@[simp] theorem discardTmp_accB (s : State) : (discardTmp s).accB = s.accB := rfl
@[simp] theorem discardTmp_img (s : State) : (discardTmp s).img = s.img := rfl
@[simp] theorem discardTmp_tmp (s : State) : (discardTmp s).tmp = s.tmp := rfl
@[simp] theorem discardTmp_kbuf (s : State) : (discardTmp s).kbuf = s.kbuf := rfl
@[simp] theorem discardTmp_cap (s : State) : (discardTmp s).cap = s.cap := rfl
@[simp] theorem discardTmp_kernelDiscarded (s : State) : (discardTmp s).kernelDiscarded = s.kernelDiscarded := rfl
@[simp] theorem discardTmp_draws (s : State) : (discardTmp s).draws = s.draws := rfl
@[simp] theorem discardTmp_host (s : State) : (discardTmp s).host = s.host := rfl
@[simp] theorem discardTmp_answer (s : State) : (discardTmp s).answer = s.answer := rfl

@[simp] theorem setAccumulators_cmd (c : Rgb F64) (s : State) : (setAccumulators c s).cmd = s.cmd := rfl
@[simp] theorem setAccumulators_status (c : Rgb F64) (s : State) : (setAccumulators c s).status = s.status := rfl
@[simp] theorem setAccumulators_errcode (c : Rgb F64) (s : State) : (setAccumulators c s).errcode = s.errcode := rfl
@[simp] theorem setAccumulators_w (c : Rgb F64) (s : State) : (setAccumulators c s).w = s.w := rfl
@[simp] theorem setAccumulators_h (c : Rgb F64) (s : State) : (setAccumulators c s).h = s.h := rfl
@[simp] theorem setAccumulators_sigma (c : Rgb F64) (s : State) : (setAccumulators c s).sigma = s.sigma := rfl
@[simp] theorem setAccumulators_radius (c : Rgb F64) (s : State) : (setAccumulators c s).radius = s.radius := rfl
@[simp] theorem setAccumulators_halflen (c : Rgb F64) (s : State) : (setAccumulators c s).halflen = s.halflen := rfl
@[simp] theorem setAccumulators_klen (c : Rgb F64) (s : State) : (setAccumulators c s).klen = s.klen := rfl
@[simp] theorem setAccumulators_row (c : Rgb F64) (s : State) : (setAccumulators c s).row = s.row := rfl
@[simp] theorem setAccumulators_col (c : Rgb F64) (s : State) : (setAccumulators c s).col = s.col := rfl
@[simp] theorem setAccumulators_pix (c : Rgb F64) (s : State) : (setAccumulators c s).pix = s.pix := rfl
@[simp] theorem setAccumulators_chR (c : Rgb F64) (s : State) : (setAccumulators c s).chR = s.chR := rfl
@[simp] theorem setAccumulators_chG (c : Rgb F64) (s : State) : (setAccumulators c s).chG = s.chG := rfl
@[simp] theorem setAccumulators_chB (c : Rgb F64) (s : State) : (setAccumulators c s).chB = s.chB := rfl
@[simp] theorem setAccumulators_accR (c : Rgb F64) (s : State) : (setAccumulators c s).accR = c.r := rfl
@[simp] theorem setAccumulators_accG (c : Rgb F64) (s : State) : (setAccumulators c s).accG = c.g := rfl
@[simp] theorem setAccumulators_accB (c : Rgb F64) (s : State) : (setAccumulators c s).accB = c.b := rfl
@[simp] theorem setAccumulators_img (c : Rgb F64) (s : State) : (setAccumulators c s).img = s.img := rfl
@[simp] theorem setAccumulators_tmp (c : Rgb F64) (s : State) : (setAccumulators c s).tmp = s.tmp := rfl
@[simp] theorem setAccumulators_kbuf (c : Rgb F64) (s : State) : (setAccumulators c s).kbuf = s.kbuf := rfl
@[simp] theorem setAccumulators_cap (c : Rgb F64) (s : State) : (setAccumulators c s).cap = s.cap := rfl
@[simp] theorem setAccumulators_kernelDiscarded (c : Rgb F64) (s : State) : (setAccumulators c s).kernelDiscarded = s.kernelDiscarded := rfl
@[simp] theorem setAccumulators_draws (c : Rgb F64) (s : State) : (setAccumulators c s).draws = s.draws := rfl
@[simp] theorem setAccumulators_host (c : Rgb F64) (s : State) : (setAccumulators c s).host = s.host := rfl
@[simp] theorem setAccumulators_answer (c : Rgb F64) (s : State) : (setAccumulators c s).answer = s.answer := rfl

/-! ### Reset -/

/-- Reset keeps the capacities, the draw number and the host's side, and leaves everything else as after power-on. -/
theorem hostReset_eq (s : State) :
    hostReset s = { State.reset with cap := s.cap, draws := s.draws, host := s.host, answer := s.answer } := rfl

end Sys2Proof.Machine
end

