-- ==== Sys2Proof/Laws/Exec.lean ====
section
/-!
SUPPORT. For each command everything its meaning can do: the guard of each outcome beside the state it answers. Every
later proof about a command cites its lemma here in place of unfolding the meaning.
-/
namespace Sys2Proof.Machine

theorem execUnpack_eq (s : State) :
    execUnpack s = .next (endCommand { s with
      chR := (unpack s.pix).r, chG := (unpack s.pix).g, chB := (unpack s.pix).b }) := rfl

theorem execPack_eq (s : State) :
    execPack s = .next (endCommand { s with
      pix := packOrDraw (num s.draws) s.draws .pix ⟨s.accR, s.accG, s.accB⟩ }) := rfl

/-- A length that fits its register is stored as it is. -/
theorem lengthWord_toNat (d : Nat) (site : Config.Site) {n : Nat} (h : n < 2 ^ 32) : (lengthWord d site n).toNat = n := by
  rw [lengthWord, if_pos h, BitVec.toNat_ofNat, Nat.mod_eq_of_lt h]

/-- The register never claims more entries than there are. -/
theorem lengthWord_toNat_le (d : Nat) (site : Config.Site) (n : Nat) : (lengthWord d site n).toNat ≤ n := by
  by_cases h : n < 2 ^ 32
  · exact (lengthWord_toNat d site h).le
  · have := (lengthWord d site n).isLt
    omega

/-- The state of a successful KGEN (R141). -/
def kgenDone (s : State) : State :=
  endCommand ({ s with
    kbuf := Memory.writePrefix (Memory.observed (s.flag .kvalid) s.kbuf) (generate (num s.draws) s.sigma)
    halflen := lengthWord s.draws .halflen (halfLength (num s.draws) s.sigma)
    klen := lengthWord s.draws .klen (2 * halfLength (num s.draws) s.sigma - 1)
    kernelDiscarded := false }.setFlag .kvalid true)

/-- KGEN refuses a bad sigma, refuses a kernel that does not fit, or leaves the kernel. -/
theorem execKgen_cases (s : State) :
    (validSigma s.sigma = false ∧ execKgen s = .next (raiseError .invalidParameter (discardKernel s))) ∨
    (validSigma s.sigma = true ∧ exceedsKernelCapacity (num s.draws) s.sigma s.cap.khalfMax = true ∧
      execKgen s = .next (raiseError .kernelCapacity (discardKernel s))) ∨
    (validSigma s.sigma = true ∧ exceedsKernelCapacity (num s.draws) s.sigma s.cap.khalfMax = false ∧
      execKgen s = .next (kgenDone s)) := by
  cases hv : validSigma s.sigma
  · exact .inl ⟨rfl, by simp [execKgen, hv]⟩
  · cases hc : exceedsKernelCapacity (num s.draws) s.sigma s.cap.khalfMax
    · exact .inr (.inr ⟨rfl, rfl, by simp [execKgen, hv, hc, kgenDone]⟩)
    · exact .inr (.inl ⟨rfl, rfl, by simp [execKgen, hv, hc]⟩)

/-- The state of a successful FIR1D.H (R155). -/
def fir1dHDone (s : State) : State :=
  endCommand (setAccumulators (rowWindow (num s.draws) (imgWord s) s.w.toNat s.radius.toNat (kernelEntry s)
    s.row.toNat s.col.toNat) s)

/-- FIR1D.H reports the geometry, an operand, or leaves the three sums. -/
theorem execFir1dH_cases (s : State) :
    (geometryExceeds s = true ∧ execFir1dH s = .next (raiseError .geometry s)) ∨
    (geometryExceeds s = false ∧
      (s.flag .kvalid = false ∨ positionOutside s = true ∨ windowExceeds (num s.draws) s = true) ∧
      execFir1dH s = .next (raiseError .operand s)) ∨
    (geometryExceeds s = false ∧ s.flag .kvalid = true ∧ positionOutside s = false ∧
      windowExceeds (num s.draws) s = false ∧ execFir1dH s = .next (fir1dHDone s)) := by
  cases hg : geometryExceeds s <;> cases hk : s.flag .kvalid <;> cases hp : positionOutside s <;>
    cases hw : windowExceeds (num s.draws) s <;> simp [execFir1dH, hg, hk, hp, hw, fir1dHDone]

/-- The state of a successful FIR1D.V (R156). -/
def fir1dVDone (s : State) : State :=
  endCommand (setAccumulators (columnWindow (num s.draws) (tmpWord s) s.w.toNat s.h.toNat s.radius.toNat
    (kernelEntry s) s.row.toNat s.col.toNat) s)

/-- FIR1D.V reports the geometry, an operand, or leaves the three sums. -/
theorem execFir1dV_cases (s : State) :
    (geometryExceeds s = true ∧ execFir1dV s = .next (raiseError .geometry s)) ∨
    (geometryExceeds s = false ∧
      (s.flag .kvalid = false ∨ s.flag .tvalid = false ∨ positionOutside s = true ∨
        windowExceeds (num s.draws) s = true) ∧
      execFir1dV s = .next (raiseError .operand s)) ∨
    (geometryExceeds s = false ∧ s.flag .kvalid = true ∧ s.flag .tvalid = true ∧ positionOutside s = false ∧
      windowExceeds (num s.draws) s = false ∧ execFir1dV s = .next (fir1dVDone s)) := by
  cases hg : geometryExceeds s <;> cases hk : s.flag .kvalid <;> cases ht : s.flag .tvalid <;>
    cases hp : positionOutside s <;> cases hw : windowExceeds (num s.draws) s <;>
    simp [execFir1dV, hg, hk, ht, hp, hw, fir1dVDone]

/-- The state of a successful HPASS (R161). -/
def hpassDone (s : State) : State :=
  endCommand ({ s with
    tmp := Memory.writePrefix (Memory.observed (s.flag .tvalid) s.tmp) (horizontalPass (num s.draws) s.draws
      (imgWord s) s.w.toNat s.h.toNat s.radius.toNat (kernelEntry s)) }.setFlag .tvalid true)

/-- HPASS reports the geometry, an operand, or leaves the intermediate image. -/
theorem execHpass_cases (s : State) :
    (geometryExceeds s = true ∧ execHpass s = .next (raiseError .geometry (discardTmp s))) ∨
    (geometryExceeds s = false ∧ (s.flag .kvalid = false ∨ windowExceeds (num s.draws) s = true) ∧
      execHpass s = .next (raiseError .operand (discardTmp s))) ∨
    (geometryExceeds s = false ∧ s.flag .kvalid = true ∧ windowExceeds (num s.draws) s = false ∧
      execHpass s = .next (hpassDone s)) := by
  cases hg : geometryExceeds s <;> cases hk : s.flag .kvalid <;> cases hw : windowExceeds (num s.draws) s <;>
    simp [execHpass, hg, hk, hw, hpassDone]

/-- The state of a successful VPASS (R163). -/
def vpassDone (s : State) : State :=
  endCommand { s with
    img := Memory.writePrefix s.img (verticalPass (num s.draws) s.draws (tmpWord s) s.w.toNat s.h.toNat
      s.radius.toNat (kernelEntry s)) }

/-- VPASS reports the geometry, an operand, or leaves the image. -/
theorem execVpass_cases (s : State) :
    (geometryExceeds s = true ∧ execVpass s = .next (raiseError .geometry s)) ∨
    (geometryExceeds s = false ∧
      (s.flag .kvalid = false ∨ s.flag .tvalid = false ∨ windowExceeds (num s.draws) s = true) ∧
      execVpass s = .next (raiseError .operand s)) ∨
    (geometryExceeds s = false ∧ s.flag .kvalid = true ∧ s.flag .tvalid = true ∧
      windowExceeds (num s.draws) s = false ∧ execVpass s = .next (vpassDone s)) := by
  cases hg : geometryExceeds s <;> cases hk : s.flag .kvalid <;> cases ht : s.flag .tvalid <;>
    cases hw : windowExceeds (num s.draws) s <;> simp [execVpass, hg, hk, ht, hw, vpassDone]

/-- The words a successful BLUR leaves in the image (R166). -/
def blurImage (s : State) : List Word :=
  blurWords (num s.draws) s.draws (imgWord s) s.w.toNat s.h.toNat (blurRadius (num s.draws) s.sigma)
    fun n => (generate (num s.draws) s.sigma).getD n 0

/-- The state of a successful BLUR (R166). -/
def blurDone (s : State) : State :=
  endCommand { discardTmp (discardKernel s) with
    img := Memory.writePrefix s.img (blurImage s)
    tmp := []
    kbuf := []
    klen := Config.freeWord s.draws .klen
    halflen := Config.freeWord s.draws .halflen }

/-- BLUR refuses a bad sigma, the geometry, a kernel that does not fit, or leaves the blurred image. -/
theorem execBlur_cases (s : State) :
    (validSigma s.sigma = false ∧
      execBlur s = .next (raiseError .invalidParameter (discardTmp (discardKernel s)))) ∨
    (validSigma s.sigma = true ∧ geometryExceeds s = true ∧
      execBlur s = .next (raiseError .geometry (discardTmp (discardKernel s)))) ∨
    (validSigma s.sigma = true ∧ geometryExceeds s = false ∧
      exceedsKernelCapacity (num s.draws) s.sigma s.cap.khalfMax = true ∧
      execBlur s = .next (raiseError .kernelCapacity (discardTmp (discardKernel s)))) ∨
    (validSigma s.sigma = true ∧ geometryExceeds s = false ∧
      exceedsKernelCapacity (num s.draws) s.sigma s.cap.khalfMax = false ∧ execBlur s = .next (blurDone s)) := by
  cases hv : validSigma s.sigma
  · exact .inl ⟨rfl, by simp [execBlur, hv]⟩
  · cases hg : geometryExceeds s
    · cases hc : exceedsKernelCapacity (num s.draws) s.sigma s.cap.khalfMax
      · exact .inr (.inr (.inr ⟨rfl, rfl, rfl, by simp [execBlur, hv, hg, hc, blurDone, blurImage]⟩))
      · exact .inr (.inr (.inl ⟨rfl, rfl, rfl, by simp [execBlur, hv, hg, hc]⟩))
    · exact .inr (.inl ⟨rfl, rfl, by simp [execBlur, hv, hg]⟩)

/-- The state of a successful SHARPEN (R181). -/
def sharpenDone (s : State) : State :=
  endCommand { discardTmp s with
    img := Memory.writePrefix s.img
      (sharpenWords (num s.draws) s.draws (imgWord s) s.w.toNat s.h.toNat)
    tmp := [] }

/-- SHARPEN reports the geometry or leaves the sharpened image. -/
theorem execSharpen_cases (s : State) :
    (geometryExceeds s = true ∧ execSharpen s = .next (raiseError .geometry (discardTmp s))) ∨
    (geometryExceeds s = false ∧ execSharpen s = .next (sharpenDone s)) := by
  cases hg : geometryExceeds s <;> simp [execSharpen, hg, sharpenDone]

/-! ### The guards as inequalities -/

theorem geometryExceeds_eq_false (s : State) : geometryExceeds s = false ↔ GeometryOk s := by
  unfold geometryExceeds
  rw [decide_eq_false_iff_not, not_lt]
  rfl

theorem windowExceeds_eq_false (d : Nat) (s : State) : windowExceeds (num d) s = false ↔ WindowOk s := by
  simp [windowExceeds, WindowOk, num]

theorem positionOutside_eq_false (s : State) : positionOutside s = false ↔ PositionOk s := by
  simp [positionOutside, PositionOk]

theorem exceedsKernelCapacity_eq_false (s : State) :
    exceedsKernelCapacity (num s.draws) s.sigma s.cap.khalfMax = false ↔ CapacityOk s := by
  simp [exceedsKernelCapacity, CapacityOk, halfLength]

/-! ### Lengths of what the passes write -/

@[simp] theorem horizontalPass_length (N : Numerics) (d : Nat) (px : Nat → Word) (w h radius : Nat) (K : Nat → F64) :
    (horizontalPass N d px w h radius K).length = w * h := by simp [horizontalPass]

@[simp] theorem verticalPass_length (N : Numerics) (d : Nat) (px : Nat → Word) (w h radius : Nat) (K : Nat → F64) :
    (verticalPass N d px w h radius K).length = w * h := by simp [verticalPass]

@[simp] theorem blurImage_length (s : State) : (blurImage s).length = s.w.toNat * s.h.toNat := by
  simp [blurImage, blurWords]

@[simp] theorem sharpenWords_length (N : Numerics) (d : Nat) (px : Nat → Word) (w h : Nat) :
    (sharpenWords N d px w h).length = w * h := by simp [sharpenWords]

theorem generate_length (N : Numerics) (s : F64) : (generate N s).length = 2 * halfLength N s - 1 := by
  simp only [generate, List.length_append, List.length_reverse, List.length_tail, List.length_map, List.length_range]
  omega

end Sys2Proof.Machine
end

