-- ==== Sys2Proof/Laws/Float.lean ====
section
/-!
SUPPORT. The fields of a binary64 pattern, the number it stands for, and the position of a number's highest set bit.
-/
namespace Sys2Proof.F64

/-! ### Fields -/

theorem expField_lt (a : F64) : a.expField < 2 ^ 11 := Nat.mod_lt _ (by decide)

theorem fracField_lt (a : F64) : a.fracField < 2 ^ 52 := Nat.mod_lt _ (by decide)

/-- A pattern put together from its three fields (R110). -/
theorem toNat_eq_fields (a : F64) :
    a.toNat = (if a.sign then 2 ^ 63 else 0) + a.expField * 2 ^ 52 + a.fracField := by
  have hlt := a.isLt
  have hs : a.sign = decide (2 ^ 63 ≤ a.toNat) := by
    have h := BitVec.msb_eq_decide a
    rw [BitVec.msb_eq_getLsbD_last] at h
    simpa [sign] using h
  rw [hs]
  unfold expField fracField
  by_cases h : 2 ^ 63 ≤ a.toNat
  · simp only [h, decide_true, if_true]; omega
  · simp only [h, decide_false, Bool.false_eq_true, if_false]; omega

theorem toNat_ofSignBits (neg : Bool) {b : Nat} (h : b < 2 ^ 63) :
    (ofSignBits neg b).toNat = (if neg then 2 ^ 63 else 0) + b := by
  unfold ofSignBits
  rw [BitVec.toNat_ofNat, Nat.mod_eq_of_lt]
  cases neg <;> (simp; omega)

@[simp] theorem sign_ofSignBits (neg : Bool) {b : Nat} (h : b < 2 ^ 63) : (ofSignBits neg b).sign = neg := by
  have hm : (ofSignBits neg b).sign = decide (2 ^ 63 ≤ (ofSignBits neg b).toNat) := by
    have h := BitVec.msb_eq_decide (ofSignBits neg b)
    rw [BitVec.msb_eq_getLsbD_last] at h
    simpa [sign] using h
  rw [hm, toNat_ofSignBits neg h]
  cases neg
  · simp; omega
  · simp

theorem expField_ofSignBits (neg : Bool) {b : Nat} (h : b < 2 ^ 63) : (ofSignBits neg b).expField = b / 2 ^ 52 := by
  unfold expField
  rw [toNat_ofSignBits neg h]
  cases neg <;> simp <;> omega

theorem fracField_ofSignBits (neg : Bool) {b : Nat} (h : b < 2 ^ 63) : (ofSignBits neg b).fracField = b % 2 ^ 52 := by
  unfold fracField
  rw [toNat_ofSignBits neg h]
  cases neg
  · simp
  · simp; omega

/-- Below the pattern of infinity every pattern is finite. -/
theorem isFinite_ofSignBits (neg : Bool) {b : Nat} (h : b < infBits) : (ofSignBits neg b).isFinite = true := by
  have hb : b < 2 ^ 63 := lt_trans h (by decide)
  unfold isFinite
  rw [expField_ofSignBits neg hb]
  unfold infBits at h
  simp only [bne_iff_ne, ne_eq]
  omega

/-! ### The number a pattern stands for -/

theorem signedMag_natAbs (a : F64) : a.signedMag.natAbs = a.mag := by unfold signedMag; split <;> simp

theorem mag_eq_zero (a : F64) : a.mag = 0 ↔ a.isZero = true := by
  unfold mag isZero
  split
  · rename_i h; simp [h]
  · rename_i h; simp [h]

end Sys2Proof.F64

namespace Sys2Proof.Machine

theorem toRat_pos (a : F64) : 0 < toRat a ↔ 0 < a.signedMag := by
  unfold toRat
  rw [div_pos_iff_of_pos_right (by positivity)]
  exact Int.cast_pos

theorem toRat_neg (a : F64) : toRat a < 0 ↔ a.signedMag < 0 := by
  unfold toRat
  rw [div_neg_iff]
  have h : (0 : ℚ) < 2 ^ 1074 := by positivity
  simp [h, h.le.not_gt]

theorem toRat_eq_zero (a : F64) : toRat a = 0 ↔ a.signedMag = 0 := by
  unfold toRat
  rw [div_eq_zero_iff]
  simp

theorem toRat_le (a b : F64) : toRat a ≤ toRat b ↔ a.signedMag ≤ b.signedMag := by
  unfold toRat
  rw [div_le_div_iff_of_pos_right (by positivity)]
  exact Int.cast_le

theorem toRat_of_signedMag {a : F64} {z : Int} (h : a.signedMag = z * 2 ^ 1074) : toRat a = z := by
  unfold toRat
  rw [h, Int.cast_mul, Int.cast_pow, Int.cast_ofNat]
  exact mul_div_cancel_right₀ _ (by positivity)

theorem toRat_lt (a b : F64) : toRat a < toRat b ↔ a.signedMag < b.signedMag := by
  rw [← not_le, ← not_le, toRat_le]

/-- Truncation toward zero, computed on the pattern (R118). -/
theorem towardZero_toRat (a : F64) : towardZero (toRat a) = a.truncInt := by
  have hfloor : ⌊((a.mag : ℚ)) / 2 ^ 1074⌋ = ((a.mag / F64.unit : Nat) : Int) := by
    have h := Rat.floor_natCast_div_natCast a.mag F64.unit
    have hu : ((F64.unit : Nat) : ℚ) = 2 ^ 1074 := by rw [F64.unit, Nat.cast_pow, Nat.cast_ofNat]
    rw [hu] at h
    exact_mod_cast h
  have hpos : (0 : ℚ) ≤ (a.mag : ℚ) / 2 ^ 1074 := by positivity
  unfold towardZero toRat F64.signedMag F64.truncInt
  cases hs : a.sign
  · simp only [Bool.false_eq_true, if_false, Int.cast_natCast]
    rw [if_pos hpos, hfloor]
  · simp only [if_true, Int.cast_neg, Int.cast_natCast, neg_div, Int.ceil_neg, hfloor, neg_nonneg]
    split
    · rename_i h
      have h0 : (a.mag : ℚ) / 2 ^ 1074 = 0 := le_antisymm h hpos
      rw [h0] at hfloor ⊢
      rw [← hfloor]
      simp
    · rfl

end Sys2Proof.Machine

namespace Sys2Proof.F64

/-- `of_int` where the spec defines it. -/
theorem ofInt_of_lt {z : Int} (h : z.natAbs < 2 ^ 53) :
    ofInt z = ofSignBits (decide (z < 0)) (roundRat (z.natAbs * unit) 1) := by rw [ofInt, if_pos h]

/-- `of_int` from `2^53` on. -/
theorem ofInt_natCast_of_le {n : Nat} (h : 2 ^ 53 ≤ n) : ofInt (n : Int) = ofSignBits false (ofLargeNat false n) := by
  have hneg : decide ((n : Int) < 0) = false := by simp
  rw [ofInt, hneg, Int.natAbs_natCast, if_neg (by omega)]

theorem floorRat_lt (num den : Nat) : floorRat num den < infBits :=
  lt_of_le_of_lt (Nat.min_le_right _ _) (by decide)

theorem roundRat_le (num den : Nat) : roundRat num den ≤ infBits := Nat.min_le_right _ _

/-- Everything `of_int` can answer from `2^53` on: one of the two ends of the bracket, the lower one where it is the
integer itself, never the lower one where the bracket ends at infinity. -/
theorem ofLargeNat_cases (neg : Bool) (n : Nat) :
    (ofLargeNat neg n = floorRat (n * unit) 1 ∧
      ((ofSignBits neg (floorRat (n * unit) 1)).mag = n * unit ∨ floorRat (n * unit) 1 + 1 < infBits)) ∨
    (ofLargeNat neg n = floorRat (n * unit) 1 + 1 ∧ (ofSignBits neg (floorRat (n * unit) 1)).mag ≠ n * unit) := by
  simp only [ofLargeNat]
  split
  · rename_i h
    exact .inl ⟨rfl, h.imp_right And.left⟩
  · rename_i h
    exact .inr ⟨rfl, fun hm => h (.inl hm)⟩

theorem ofLargeNat_le (neg : Bool) (n : Nat) : ofLargeNat neg n ≤ infBits := by
  have h := floorRat_lt (n * unit) 1
  obtain ⟨hn, -⟩ | ⟨hn, -⟩ := ofLargeNat_cases neg n <;> omega

theorem isNaN_ofSignBits (neg : Bool) {b : Nat} (h : b ≤ infBits) : (ofSignBits neg b).isNaN = false := by
  have hb : b < 2 ^ 63 := lt_of_le_of_lt h (by decide)
  unfold isNaN
  rw [expField_ofSignBits neg hb, fracField_ofSignBits neg hb]
  unfold infBits at h
  rw [Bool.and_eq_false_iff, beq_eq_false_iff_ne, bne_eq_false_iff_eq]
  omega

/-- `of_int` is never a NaN, whatever the free threshold. -/
@[simp] theorem isNaN_ofInt (z : Int) : (ofInt z).isNaN = false := by
  unfold ofInt
  split
  · exact isNaN_ofSignBits _ (roundRat_le _ _)
  · exact isNaN_ofSignBits _ (ofLargeNat_le _ _)

/-- `of_int` keeps the sign, whatever the free threshold. -/
@[simp] theorem sign_ofInt (z : Int) : (ofInt z).sign = decide (z < 0) := by
  have hlt : infBits < 2 ^ 63 := by decide
  unfold ofInt
  split
  · exact sign_ofSignBits _ (lt_of_le_of_lt (roundRat_le _ _) hlt)
  · exact sign_ofSignBits _ (lt_of_le_of_lt (ofLargeNat_le _ _) hlt)

@[simp] theorem expField_neg (a : F64) : (neg a).expField = a.expField := by
  unfold expField neg
  rw [BitVec.toNat_xor, Nat.xor_div_two_pow, Nat.xor_mod_two_pow]
  exact Nat.xor_zero _

@[simp] theorem fracField_neg (a : F64) : (neg a).fracField = a.fracField := by
  unfold fracField neg
  rw [BitVec.toNat_xor, Nat.xor_mod_two_pow]
  exact Nat.xor_zero _

@[simp] theorem isNaN_neg (a : F64) : (neg a).isNaN = a.isNaN := by simp [isNaN]

@[simp] theorem isInf_neg (a : F64) : (neg a).isInf = a.isInf := by simp [isInf]

/-- A quotient is a NaN only for a NaN operand, two infinities, or a zero divisor (R111). -/
theorem isNaN_div {nan a b : F64} (ha : a.isNaN = false) (hb : b.isNaN = false)
    (hinf : (a.isInf && b.isInf) = false) (hz : b.isZero = false) : (div nan a b).isNaN = false := by
  have hi := isNaN_ofSignBits (a.sign != b.sign) (le_refl infBits)
  unfold div
  simp only [ha, hb, hz, Bool.or_self, Bool.false_eq_true, if_false]
  split
  · rename_i h
    rw [h, Bool.true_and] at hinf
    rw [if_neg (by simp [hinf])]
    exact hi
  · split
    · exact isNaN_ofSignBits _ (by decide)
    · exact isNaN_ofSignBits _ (roundRat_le _ _)

/-! ### The highest set bit -/

theorem topBitFrom_eq (j : Nat) : ∀ n acc : Nat, n < 2 ^ 2 ^ j → topBitFrom j n acc = acc + Nat.log 2 n := by
  induction j with
  | zero =>
    intro n acc h
    have h0 : Nat.log 2 n = 0 := Nat.log_of_lt (by simpa using h)
    rw [h0]
    rfl
  | succ j ih =>
    intro n acc h
    have hsq : (2 : Nat) ^ 2 ^ (j + 1) = 2 ^ 2 ^ j * 2 ^ 2 ^ j := by rw [← pow_add, pow_succ]; congr 1; ring
    unfold topBitFrom
    split
    · rename_i hle
      have hlt : n / 2 ^ 2 ^ j < 2 ^ 2 ^ j := Nat.div_lt_of_lt_mul (hsq ▸ h)
      have hn : n ≠ 0 := by have := Nat.two_pow_pos (2 ^ j); omega
      have hlog : 2 ^ j ≤ Nat.log 2 n := (Nat.le_log_iff_pow_le (by decide) hn).2 hle
      rw [ih _ _ hlt, Nat.log_div_base_pow]
      omega
    · rename_i hlt
      exact ih _ _ (not_le.1 hlt)

/-- `topBit` is the binary logarithm on all numbers the operations meet. -/
theorem topBit_eq {n : Nat} (h : n < 2 ^ 2 ^ 13) : topBit n = Nat.log 2 n := by
  rw [topBit, topBitFrom_eq 13 n 0 h, Nat.zero_add]

end Sys2Proof.F64
end

