-- ==== Sys2Proof/Laws/PerInstr.lean ====
section
/-! SUPPORT. The family of facts stated for each command on its own. -/
namespace Sys2Proof.Laws.RoundTrip

/-- The command's word decodes to the command (R93), and the decoder finds no reserved field in it (R90). -/
def Statement (i : Instr) : Prop := decode (encode i) = .ok i ∧ cmdFieldsWf (encode i) = true

theorem unpack : Statement .unpack := by unfold Statement; decide
theorem pack : Statement .pack := by unfold Statement; decide
theorem kgen : Statement .kgen := by unfold Statement; decide
theorem fir1dH : Statement .fir1dH := by unfold Statement; decide
theorem fir1dV : Statement .fir1dV := by unfold Statement; decide
theorem hpass : Statement .hpass := by unfold Statement; decide
theorem vpass : Statement .vpass := by unfold Statement; decide
theorem blur : Statement .blur := by unfold Statement; decide
theorem sharpen : Statement .sharpen := by unfold Statement; decide

end Sys2Proof.Laws.RoundTrip
end

