-- ==== Sys2Proof/Laws/Step.lean ====
section
/-!
SUPPORT. What one step does, by the host's next transaction; register numbers and register reads.
-/
namespace Sys2Proof.Machine

/-! ### Register numbers -/

@[simp] theorem regOfNumber_regNumber (r : Reg) : regOfNumber (regNumber r) = some r := by cases r <;> rfl

theorem regNumber_lt (r : Reg) : regNumber r < 18 := by cases r <;> decide

/-- Numbers 0 to 17 and no others name a register (R22, R72). -/
theorem regOfNumber_eq_none (n : Nat) : regOfNumber n = none ↔ 18 ≤ n := by
  constructor
  · intro h
    by_contra hn
    have hn' : n < 18 := by omega
    interval_cases n <;> simp [regOfNumber] at h
  · intro h
    unfold regOfNumber
    split <;> first | omega | rfl

/-- A number that names a register is that register's number. -/
theorem regOfNumber_eq_some {n : Nat} {r : Reg} (h : regOfNumber n = some r) : n = regNumber r := by
  have hn : n < 18 := by
    by_contra hn
    rw [(regOfNumber_eq_none n).2 (by omega)] at h
    simp at h
  interval_cases n <;> simp only [regOfNumber, Option.some.injEq] at h <;> subst h <;> rfl

/-- A write is defined exactly for a value of the register's width (R70). -/
theorem writeRegister_isSome (s : State) (r : Reg) (v : HostValue) :
    (writeRegister s r v).isSome = (v.is64 == regIs64 (regNumber r)) := by
  cases r <;> cases v <;> rfl

/-! ### The step -/

/-- With no transaction left the machine idles (R210). -/
theorem step_idle {s : State} (h : s.host = []) : step s = .next s := by simp [step, h]

/-- Otherwise it performs the next one. -/
theorem step_transact {s : State} {op : HostOp} {rest : List HostOp} (h : s.host = op :: rest) :
    step s = transact op { s with host := rest, draws := s.draws + 1 } := by simp [step, h]

/-- On a busy engine (R226). -/
theorem transact_busy {op : HostOp} {s : State} (h : s.flag .busy = true) (h1 : op ≠ .readReg 1) (h2 : op ≠ .wait)
    (h3 : op ≠ .reset) : transact op s = .refused .busyEngine := by
  cases op with
  | readReg n =>
    have hn : n ≠ 1 := fun e => h1 (e ▸ rfl)
    simp [transact, h, hn]
  | reset => exact absurd rfl h3
  | wait => exact absurd rfl h2
  | _ => simp [transact, h]

theorem transact_writeReg {s : State} (h : s.flag .busy = false) (n : Nat) (v : HostValue) :
    transact (.writeReg n v) s = hostWriteReg n v s := by simp [transact, h]

theorem transact_readReg {s : State} (h : s.flag .busy = false) (n : Nat) :
    transact (.readReg n) s = hostReadReg n s := by simp [transact, h]

theorem transact_writeMem {s : State} (h : s.flag .busy = false) (sp : Space) (idx : Nat) (v : HostValue) :
    transact (.writeMem sp idx v) s = hostWriteMem sp idx v s := by simp [transact, h]

theorem transact_readMem {s : State} (h : s.flag .busy = false) (sp : Space) (idx : Nat) :
    transact (.readMem sp idx) s = hostReadMem sp idx s := by simp [transact, h]

/-- A write to `CMD` runs a command (R92). -/
theorem hostWriteReg_cmd (c : Word) (s : State) : hostWriteReg 0 (.w32 c) s = runCommand c s := rfl

theorem runCommand_ok {c : Word} {i : Instr} (h : decode c = .ok i) (s : State) :
    runCommand c s = exec i (issueCommand c s) := by simp [runCommand, h]

theorem runCommand_error {c : Word} {e : Reserved} (h : decode c = .error e) (s : State) :
    runCommand c s = .next (raiseError .illegalCommand (issueCommand c s)) := by simp [runCommand, h]

/-- A write to a register other than `CMD`, of its width (R70). -/
theorem hostWriteReg_of_write {s t : State} {r : Reg} {v : HostValue} (hr : r ≠ .cmd)
    (h : writeRegister s r v = some t) : hostWriteReg (regNumber r) v s = .next t := by
  cases r <;> cases v <;> simp_all [hostWriteReg, regOfNumber, regNumber]

theorem hostReadReg_regNumber (r : Reg) (s : State) :
    hostReadReg (regNumber r) s = .next { s with answer := some (readRegister s r) } := by simp [hostReadReg]

end Sys2Proof.Machine
end

