-- ==== Sys2Proof/Laws/Units.lean ====
section
/-!
SUPPORT. One lemma for each function of a unit that ties it to the spec's formula written out in `Safety.lean`: the
channels of a pixel, the window sum, the kernel entry, the row-major position.
-/
namespace Sys2Proof.Machine

/-! ### channel_pack_unpack -/

theorem channel_lt (p : Word) (shift : Nat) : channel p shift < 256 := Nat.mod_lt _ (by decide)

theorem toNat_shiftRight_and_ff (p : Word) (k : Nat) : (p >>> k &&& 0xFF#32).toNat = channel p k := by
  have h : (0xFF#32).toNat = 2 ^ 8 - 1 := rfl
  rw [BitVec.toNat_and, h, Nat.and_two_pow_sub_one_eq_mod, BitVec.toNat_ushiftRight, Nat.shiftRight_eq_div_pow]
  rfl

@[simp] theorem unpack_r_toNat (p : Word) : (unpack p).r.toNat = channel p 16 := toNat_shiftRight_and_ff p 16

@[simp] theorem unpack_g_toNat (p : Word) : (unpack p).g.toNat = channel p 8 := toNat_shiftRight_and_ff p 8

@[simp] theorem unpack_b_toNat (p : Word) : (unpack p).b.toNat = channel p 0 := by
  have := toNat_shiftRight_and_ff p 0
  simpa [unpack] using this

/-- `pack` is defined exactly when its three conversions are. -/
theorem pack_eq_some (N : Numerics) (c : Rgb F64) (v : Word) :
    pack N c = some v ↔ ∃ r g b, N.truncI32 c.r = some r ∧ N.truncI32 c.g = some g ∧ N.truncI32 c.b = some b ∧
      v = packInts ⟨r, g, b⟩ := by
  unfold pack
  split
  · rename_i r g b hr hg hb
    simp [hr, hg, hb, eq_comm]
  · rename_i h
    constructor
    · simp
    · rintro ⟨r, g, b, hr, hg, hb, rfl⟩
      exact absurd hb (h r g b hr hg)

theorem packOrDraw_of_pack {N : Numerics} {c : Rgb F64} {v : Word} (h : pack N c = some v) (d : Nat) (site : Config.Site) :
    packOrDraw N d site c = v := by simp [packOrDraw, h]

/-! ### fir_convolver_1d -/

/-- The sample index as natural-number arithmetic. -/
theorem sampleIndex_eq (n p radius m : Nat) (hn : 0 < n) :
    sampleIndex n p ((m : Int) - radius) = min (p + m - radius) (n - 1) := by
  unfold sampleIndex clamp
  split
  · omega
  · split <;> omega

/-- `Fir1D` with the machine's numerics is the window sum of each channel (R151 to R154). -/
theorem fir1D_eq_windowSum (d : Nat) (line : Nat → Word) (n p radius : Nat) (K : Nat → F64) (hn : 0 < n) :
    fir1D (num d) line n p radius K =
      ⟨windowSum (num d) line 16 n p radius K, windowSum (num d) line 8 n p radius K,
        windowSum (num d) line 0 n p radius K⟩ := by
  have fold : ∀ (l : List Nat) (acc : Rgb F64),
      l.foldl (fun (a : Rgb F64) (m : Nat) => firTap (num d) line n p radius K a ((m : Int) - radius)) acc =
        ⟨l.foldl (fun a m => (num d).fadd a ((num d).fmul (K m)
            ((num d).ofInt (channel (line (min (p + m - radius) (n - 1))) 16 : Nat)))) acc.r,
          l.foldl (fun a m => (num d).fadd a ((num d).fmul (K m)
            ((num d).ofInt (channel (line (min (p + m - radius) (n - 1))) 8 : Nat)))) acc.g,
          l.foldl (fun a m => (num d).fadd a ((num d).fmul (K m)
            ((num d).ofInt (channel (line (min (p + m - radius) (n - 1))) 0 : Nat)))) acc.b⟩ := by
    intro l
    induction l with
    | nil => intro acc; rfl
    | cons m l ih =>
      intro acc
      have hk : ((m : Int) - radius + radius + (num d).tapBase).toNat = m := by simp [num]
      have ht : firTap (num d) line n p radius K acc ((m : Int) - radius) =
          ⟨(num d).fadd acc.r ((num d).fmul (K m)
              ((num d).ofInt (channel (line (min (p + m - radius) (n - 1))) 16 : Nat))),
            (num d).fadd acc.g ((num d).fmul (K m)
              ((num d).ofInt (channel (line (min (p + m - radius) (n - 1))) 8 : Nat))),
            (num d).fadd acc.b ((num d).fmul (K m)
              ((num d).ofInt (channel (line (min (p + m - radius) (n - 1))) 0 : Nat)))⟩ := by
        simp only [firTap, hk, sampleIndex_eq n p radius m hn, unpack_r_toNat, unpack_g_toNat, unpack_b_toNat]
      simp only [List.foldl_cons, ht, ih]
  have haccOrder : (num d).accOrder radius = (List.range (2 * radius + 1)).map fun (m : Nat) => (m : Int) - radius := rfl
  rw [fir1D, haccOrder, List.foldl_map, fold]
  rfl

theorem rowWindow_eq_rowSums (d : Nat) (px : Nat → Word) (w radius : Nat) (K : Nat → F64) (i j : Nat) (hw : 0 < w) :
    rowWindow (num d) px w radius K i j = rowSums (num d) px w radius K i j :=
  fir1D_eq_windowSum d (fun q => px (i * w + q)) w j radius K hw

theorem columnWindow_eq_columnSums (d : Nat) (px : Nat → Word) (w h radius : Nat) (K : Nat → F64) (i j : Nat)
    (hh : 0 < h) :
    columnWindow (num d) px w h radius K i j = columnSums (num d) px w h radius K i j :=
  fir1D_eq_windowSum d (fun q => px (q * w + j)) h i radius K hh

/-! ### Row-major positions -/

theorem pixel_index_lt {w h i j : Nat} (hi : i < h) (hj : j < w) : i * w + j < w * h := by
  calc i * w + j < i * w + w := by omega
    _ = (i + 1) * w := by ring
    _ ≤ h * w := Nat.mul_le_mul_right w hi
    _ = w * h := Nat.mul_comm h w

theorem row_of_index {w i j : Nat} (hj : j < w) : (i * w + j) / w = i := by
  rw [Nat.mul_comm, Nat.mul_add_div (by omega), Nat.div_eq_of_lt hj, Nat.add_zero]

theorem column_of_index {w i j : Nat} (hj : j < w) : (i * w + j) % w = j := by
  rw [Nat.mul_comm, Nat.mul_add_mod, Nat.mod_eq_of_lt hj]

/-! ### gaussian_kernel_gen -/

/-- The index operand of a weight and the divisor `two_s2` are never both infinite. -/
theorem squaredIndex_isInf (N : Numerics) (twoS2 : F64) (i : Nat) :
    ((squaredIndex N twoS2 i).isInf && twoS2.isInf) = false := by
  unfold squaredIndex
  simp only
  split
  · rw [show F64.greatest.isInf = false by decide, Bool.false_and]
  · rename_i h
    simpa using h

theorem squaredIndex_isNaN (d : Nat) (twoS2 : F64) (i : Nat) : (squaredIndex (num d) twoS2 i).isNaN = false := by
  unfold squaredIndex
  simp only
  split
  · decide
  · exact F64.isNaN_ofInt _

/-- The argument of `fexp` in a weight is no NaN at any index, however large, when `two_s2` is no NaN and not zero
(R147; log entry 25). -/
theorem weightArgument_isNaN (d : Nat) {twoS2 : F64} (i : Nat) (hn : twoS2.isNaN = false) (hz : twoS2.isZero = false) :
    ((num d).fdiv (F64.neg (squaredIndex (num d) twoS2 i)) twoS2).isNaN = false :=
  F64.isNaN_div (by simp [squaredIndex_isNaN]) hn (by simpa using squaredIndex_isInf (num d) twoS2 i) hz

/-- The half-profile, written out. -/
theorem halfProfile_eq_weightAt (N : Numerics) (s : F64) (i : Nat) : halfProfile N s i = weightAt N s i := rfl

/-- The kernel entry by the closed form of R144. -/
theorem generate_getElem (N : Numerics) (s : F64) {n : Nat} (h : n < (generate N s).length) :
    (generate N s)[n] = kernelWeight N s n := by
  have hlen := generate_length N s
  simp only [generate, kernelWeight, ← halfProfile_eq_weightAt]
  rw [List.getElem_append]
  split
  · rename_i hn
    simp only [List.length_reverse, List.length_tail, List.length_map, List.length_range] at hn
    simp only [List.getElem_reverse, List.getElem_tail, List.getElem_map, List.getElem_range, List.length_tail,
      List.length_map, List.length_range]
    congr 1
    omega
  · rename_i hn
    simp only [List.length_reverse, List.length_tail, List.length_map, List.length_range, not_lt] at hn
    simp only [List.getElem_map, List.getElem_range, List.length_reverse, List.length_tail, List.length_map,
      List.length_range]
    congr 1
    omega

end Sys2Proof.Machine
end

