-- ==== Sys2Proof/Tests/Slice0.lean ====
section
/-!
SUPPORT. Tests and witnesses. A test's expected values come from the spec's vectors, named in its comment
(95_test_vectors), or from the spec's tables; a witness shows a concrete state and operands that meet the hypotheses of
one obligation, clause by clause.
-/
namespace Sys2Proof.Tests

open Sys2Proof Sys2Proof.Machine

-- one theorem at a time: every waiting evaluation would hold a thread with its own stack
set_option Elab.async false

/-! ### States -/

/-- `1.0`. -/
def oneF : F64 := 0x3FF0000000000000

/-- The state after reset of an engine with room for 16 pixels and a half-length of 6. -/
def small : State := { State.reset with cap := ⟨16, 6⟩ }

/-- The sigma = 1.0 kernel (vector S2). -/
def kernelOne : List F64 := [0x3EB8F16964C8FD3F, 0x3F218A98E2C0B4B5, 0x3F7227213FD77689, 0x3FABA4B436E83AD6,
  0x3FCEF8E58E331738, 0x3FD9884533D43651, 0x3FCEF8E58E331738, 0x3FABA4B436E83AD6, 0x3F7227213FD77689,
  0x3F218A98E2C0B4B5, 0x3EB8F16964C8FD3F]

/-- The kernel in place and valid, an image of `w * h` pixels and an application radius. -/
def loaded (w h radius : Word) (pixels : List Word) : State :=
  { small with
    w := w, h := h, radius := radius, img := numbered 0 pixels, sigma := oneF
    kbuf := numbered 0 kernelOne, klen := 11, halflen := 6, status := 4 }

/-- Image A (vector section 2.4), 4 by 3. -/
def imageA : List Word := [0x00FF0000, 0x0000FF00, 0x000000FF, 0x00FFFFFF, 0x00102030, 0x00405060, 0x00708090,
  0x00A0B0C0, 0xFF000000, 0x7F808080, 0x00C8C8C8, 0x00646464]

/-- The intermediate image of image A at sigma 1.0 (vector V-B2). -/
def imageT : List Word := [0x004C7BA3, 0x00A4B1E1, 0x00E1E2EE, 0x00EEEEF0, 0x00637281, 0x008594A3, 0x0093A2B1,
  0x0096A5B4, 0x00868686, 0x00777777, 0x00636363, 0x005E5E5E]

/-- Image A blurred at sigma 1.0 (vector V-B2). -/
def imageO : List Word := [0x0072787E, 0x00767A80, 0x00707378, 0x006E7275, 0x007B7D7E, 0x00707172, 0x00606162,
  0x005C5C5D, 0x007D7E7E, 0x00707070, 0x005D5D5D, 0x00585858]

/-- The state a result holds. -/
def stateOf : Result → Option State
  | .next t => some t
  | .fault _ => none
  | .refused _ => none

/-- Every boundary met at once: `W * H = IMG_WORDS = 16`, `2 * RADIUS + 1 = KLEN = 11`, `ROW = H - 1`, `COL = W - 1`,
`half_length = KHALF_MAX = 6`; both scratch memories valid. -/
def edge : State :=
  { loaded 4 4 5 (List.replicate 16 0x007F7F7F) with
    row := 3, col := 3, tmp := numbered 0 (List.replicate 16 0x00777777), status := 0xC }

/-- One pixel too many. -/
def tooLarge : State := { edge with cap := ⟨15, 6⟩ }

/-! ### Well-formedness: an ill-formed term for each check -/

theorem test_every_command_is_wf : ∀ i ∈ [Instr.unpack, .pack, .kgen, .fir1dH, .fir1dV, .hpass, .vpass, .blur, .sharpen],
    i.wf = true := by decide

theorem test_wf_refuses_register_number : regNumberWf 18 = false := by decide

theorem test_wf_refuses_write_of_register_18 : (HostOp.writeReg 18 (.w32 0)).wf ⟨16, 6⟩ = false := by decide

theorem test_wf_refuses_wide_value_for_narrow_register : (HostOp.writeReg 3 (.w64 0)).wf ⟨16, 6⟩ = false := by decide

theorem test_wf_refuses_narrow_value_for_wide_register : (HostOp.writeReg 17 (.w32 0)).wf ⟨16, 6⟩ = false := by decide

theorem test_wf_refuses_read_of_register_18 : (HostOp.readReg 18).wf ⟨16, 6⟩ = false := by decide

theorem test_wf_refuses_write_beyond_image : (HostOp.writeMem .img 16 (.w32 0)).wf ⟨16, 6⟩ = false := by decide

theorem test_wf_refuses_narrow_kernel_entry : (HostOp.writeMem .kbuf 0 (.w32 0)).wf ⟨16, 6⟩ = false := by decide

theorem test_wf_refuses_wide_pixel : (HostOp.writeMem .tmp 0 (.w64 0)).wf ⟨16, 6⟩ = false := by decide

theorem test_wf_refuses_read_beyond_kernel : (HostOp.readMem .kbuf 11).wf ⟨16, 6⟩ = false := by decide

theorem test_wf_refuses_reserved_bit : cmdFieldsWf 0x00000204 = false := by decide

theorem test_wf_refuses_axis_of_blur : cmdFieldsWf 0x00000107 = false := by decide

/-! ### Decoding: words written out field by field, RSV ++ AXIS ++ OP (30_encoding R90, R93) -/

theorem test_decode_unpack : decode (0b00000000000000000000000#23 ++ 0b0#1 ++ 0b00000001#8) = .ok .unpack := by decide

theorem test_decode_pack : decode (0b00000000000000000000000#23 ++ 0b0#1 ++ 0b00000010#8) = .ok .pack := by decide

theorem test_decode_kgen : decode (0b00000000000000000000000#23 ++ 0b0#1 ++ 0b00000011#8) = .ok .kgen := by decide

theorem test_decode_fir1dH : decode (0b00000000000000000000000#23 ++ 0b0#1 ++ 0b00000100#8) = .ok .fir1dH := by decide

theorem test_decode_fir1dV : decode (0b00000000000000000000000#23 ++ 0b1#1 ++ 0b00000100#8) = .ok .fir1dV := by decide

theorem test_decode_hpass : decode (0b00000000000000000000000#23 ++ 0b0#1 ++ 0b00000101#8) = .ok .hpass := by decide

theorem test_decode_vpass : decode (0b00000000000000000000000#23 ++ 0b0#1 ++ 0b00000110#8) = .ok .vpass := by decide

theorem test_decode_blur : decode (0b00000000000000000000000#23 ++ 0b0#1 ++ 0b00000111#8) = .ok .blur := by decide

theorem test_decode_sharpen : decode (0b00000000000000000000000#23 ++ 0b0#1 ++ 0b00001000#8) = .ok .sharpen := by decide

/-- V-D1: the reserved words of the table. -/
theorem test_decode_reserved : [0x00000000#32, 0x00000009, 0x000000FF, 0x00000107, 0x00000101, 0x00000105, 0x00000204,
    0x80000007, 0x00010008].map (fun c => decodeTableWord 32 c.toNat) = List.replicate 9 none := by decide

/-! ### Binary64 -/

/-- R111: `1/0` is an infinity; R114 (b): `fexp(-0.0)` is exactly 1.0. -/
theorem test_division_by_zero_and_exp_of_zero :
    (num 0).fdiv oneF 0 = 0x7FF0000000000000 ∧ (num 0).fexp 0x8000000000000000 = oneF := by decide +kernel

/-- R147 (b), (c) at indices of 94906266 and more: `2^53` stays itself, and `2^53 + 1` becomes one of the two binary64
values next to it. -/
theorem test_of_int_above_the_exact_range :
    F64.ofInt (2 ^ 53) = 0x4340000000000000 ∧
      (F64.ofInt (9007199254740993 : Nat) = 0x4340000000000000 ∨
        F64.ofInt (9007199254740993 : Nat) = 0x4340000000000001) := by
  refine ⟨by decide +kernel, ?_⟩
  have hlo : F64.floorRat (9007199254740993 * F64.unit) 1 = 0x4340000000000000 := by decide +kernel
  rw [F64.ofInt_natCast_of_le (by norm_num)]
  obtain ⟨h, -⟩ | ⟨h, -⟩ := F64.ofLargeNat_cases false 9007199254740993
  · exact .inl (by rw [h, hlo]; rfl)
  · exact .inr (by rw [h, hlo]; rfl)

/-- V-K5 (R148): the kernel of `sigma = 2.3e-17` is `[+0.0, 1.7345316539192726e+16, +0.0]`; the end of the one of
`sigma = 0.02` is `+0.0` too. -/
theorem test_kernel_of_degenerate_sigma :
    generate (num 0) 0x3C7A8466DD9E4147 = [0, 0x434ECFBC9B6AEACB, 0] ∧
      (generate (num 0) 0x3F947AE147AE147B).head? = some 0 := by decide +kernel

/-- R147 (b), R172: the weight at index `2^600` is `+0.0` for `sigma = 2^600`, where `two_s2` is infinite, and for
`sigma = 2^511`, where it is finite. -/
theorem test_weights_of_huge_sigma :
    [0x6570000000000000, 0x5FE0000000000000].map (fun s => halfProfile (num 0) s (2 ^ 600)) = [0, 0] := by
  decide +kernel

/-- S2: the bracket computed for `e^-0.5` holds a value that, times the centre weight, gives `KBUF[4]`. -/
theorem test_exp_bracket :
    let b := expBracket (F64.mag 0xBFE0000000000000)
    0x3FCEF8E58E331738 ∈ [b.1, b.2].map fun n => (num 0).fmul 0x3FD9884533D43651 (F64.ofSignBits false n) := by
  decide +kernel

/-! ### The commands -/

/-- V-U1. -/
theorem test_unpack : (stateOf (exec .unpack { small with pix := 0xAB123456 })).map (fun t => [t.chR, t.chG, t.chB]) =
    some [18, 52, 86] := by decide

/-- V-U1. -/
theorem test_unpack_high_bits : (stateOf (exec .unpack { small with pix := 0x80FF0080 })).map
    (fun t => [t.chR, t.chG, t.chB, t.pix]) = some [255, 0, 128, 0x80FF0080] := by decide

/-- V-P1, first row. -/
theorem test_pack_truncates : (stateOf (exec .pack { small with
    accR := 0x4032FD70A3D70A3D, accG := 0x404A400000000000, accB := 0x4055800000000000 })).map (·.pix) =
      some 0x00123456 := by decide +kernel

/-- V-P1, negative sums are not clamped. -/
theorem test_pack_does_not_clamp : (stateOf (exec .pack { small with
    accR := 0xC08FE00000000000, accG := 0xC08FE00000000000, accB := 0xC08FE00000000000 })).map (·.pix) =
      some 0xFFFFFC04 := by decide +kernel

/-- V-K2: the centre weight at sigma = 0.5 is exact, and V-K1's lengths; R32: an entry of a longer kernel that was
discarded is UNSPECIFIED to a later observer. -/
theorem test_kgen : (stateOf (exec .kgen { edge with sigma := 0x3FE0000000000000, status := 0 })).map
    (fun t => (Memory.read t.kbuf 3, Memory.read t.kbuf 7, t.halflen, t.klen, t.status)) =
      some (some 0x3FE9884533D43651, none, 4, 7, 4) := by decide +kernel

/-- V-K6: sigma = 3.6e307 overflows `5 * sigma` to an infinity. -/
theorem test_kgen_capacity : (stateOf (exec .kgen { small with sigma := 0x7FC9A2028368022E, status := 4 })).map
    (fun t => (t.errcode, t.status)) = some (4, 2) := by decide +kernel

/-- V-F3: one pixel, `c = 255`. -/
theorem test_fir1dH : (stateOf (exec .fir1dH (loaded 1 1 3 [0x00FFFFFF]))).map (fun t => [t.accR, t.accG, t.accB]) =
    some [0x406E022A63FE84D2, 0x406E022A63FE84D2, 0x406E022A63FE84D2] := by decide +kernel

/-- V-F4: a radius of 6 needs 13 entries of 11. -/
theorem test_fir1dH_operand : (stateOf (exec .fir1dH (loaded 1 1 6 [0x00FFFFFF]))).map
    (fun t => (t.errcode, t.status, t.accR)) = some (5, 6, 0) := by decide +kernel

/-- V-F3 along a column of `TMP`: `c = 240`. -/
theorem test_fir1dV : (stateOf (exec .fir1dV { loaded 1 1 3 [] with tmp := [(0, 0x00F0F0F0)], status := 0xC })).map
    (fun t => [t.accR, t.accG, t.accB]) =
      some [0x406C3E4603C25EE3, 0x406C3E4603C25EE3, 0x406C3E4603C25EE3] := by decide +kernel

/-- V-E2: without an intermediate image FIR1D.V ends with OperandError. -/
theorem test_fir1dV_operand : (stateOf (exec .fir1dV (loaded 1 1 3 [0]))).map (fun t => (t.errcode, t.status)) =
    some (5, 6) := by decide +kernel

/-- V-B2, `T` at sigma 1.0: the rows of image A. -/
theorem test_hpass : (stateOf (exec .hpass (loaded 4 3 3 imageA))).map (fun t => (t.tmp, t.status)) =
    some (numbered 0 imageT, 0xC) := by decide +kernel

/-- V-H1; R32: a word of `TMP` from before, discarded, is gone. -/
theorem test_hpass_line : (stateOf (exec .hpass { loaded 4 1 3 [0x00FFFFFF, 0, 0, 0] with tmp := [(9, 7)] })).map (fun t => (t.tmp, t.img)) =
    some ([(0, 0x000E0E0E), (1, 0x00010101), (2, 0), (3, 0)], [(0, 0x00FFFFFF), (1, 0), (2, 0), (3, 0)]) := by
  decide +kernel

/-- V-B2, `O` at sigma 1.0: the columns of `T`. -/
theorem test_vpass : (stateOf (exec .vpass { loaded 4 3 3 imageA with tmp := numbered 0 imageT, status := 0xC })).map
    (fun t => (t.img, t.status)) = some (numbered 0 imageO, 0xC) := by decide +kernel

/-- V-E2: VPASS without an intermediate image. -/
theorem test_vpass_operand : (stateOf (exec .vpass (loaded 1 1 3 [0]))).map (fun t => (t.errcode, t.status)) =
    some (5, 6) := by decide +kernel

/-- V-B5: at sigma = 2.2e-17 a black pixel stays black and both flags end 0. -/
theorem test_blur : (stateOf (exec .blur { loaded 1 1 3 [0] with sigma := 0x3C795D4100811D0C })).map
    (fun t => (t.img, t.status, t.tmp.length, t.kbuf.length)) = some ([(0, 0)], 0, 0, 0) := by decide +kernel

/-- V-B2 through the two passes of BLUR with the kernel of S2. -/
theorem test_blur_words : blurWords (num 0) 0 (fun n => imageA.getD n 0) 4 3 3 (fun n => kernelOne.getD n 0) = imageO := by
  decide +kernel

/-- V-S1. -/
theorem test_sharpen : (stateOf (exec .sharpen (loaded 3 3 0 [0x00101010, 0x00202020, 0x00303030, 0x00404040, 0x00808080,
    0x00505050, 0x00606060, 0x00707070, 0x00909090]))).map (fun t => (t.img, t.status)) =
      some (numbered 0 [0, 0, 0, 0, 0x01616160, 0, 0, 0, 0], 4) := by decide +kernel

/-- V-S3: both interior pixels read the launch image. -/
theorem test_sharpen_imageA : (stateOf (exec .sharpen (loaded 4 3 0 imageA))).map (·.img) =
    some (numbered 0 [0, 0, 0, 0, 0, 0xFFFF71A0, 0xFFFFFFE9, 0, 0, 0, 0, 0]) := by decide +kernel

/-! ### The step -/

/-- V-D1: `BLUR` with `AXIS = 1` from `KVALID = TVALID = 1`. -/
theorem test_step_illegal : (stateOf (step (State.withFetchWord edge 32 0x107))).map
    (fun t => (t.errcode, t.status, t.cmd)) = some (2, 0xE, 0x107) := by decide +kernel

/-- V-E3: the next command clears the error. -/
theorem test_step_clears_error : (stateOf (step (State.withFetchWord { small with status := 2, errcode := 1 } 32 1))).map
    (fun t => (t.errcode, t.status)) = some (0, 0) := by decide +kernel

/-- V-R1: from the state after reset KGEN and BLUR report sigma, SHARPEN succeeds and changes nothing. -/
theorem test_reset_commands : [3, 7, 8].map (fun c => (stateOf (step (State.reset.withFetchWord 32 c))).map
    (fun t => (t.errcode, t.status, t.img))) = [some (1, 2, []), some (1, 2, []), some (0, 0, [])] := by decide +kernel

/-- Each of the nine commands answers a next state as the first one after reset. -/
theorem test_reset_runs_every_command : [1, 2, 3, 4, 0x104, 5, 6, 7, 8].all
    (fun c => (stateOf (step (State.reset.withFetchWord 32 c))).isSome) = true := by decide +kernel

/-! ### Witnesses: the premises -/

theorem oneF_toRat : toRat oneF = 1 := by
  have h : oneF.signedMag = 1 * 2 ^ 1074 := by decide +kernel
  simpa using toRat_of_signedMag h

theorem sigmaOk_edge : SigmaOk edge := ⟨by decide, (toRat_pos _).2 (by decide +kernel)⟩

theorem geometryOk_edge : GeometryOk edge := by unfold GeometryOk; decide

theorem positionOk_edge : PositionOk edge := by unfold PositionOk; decide

theorem windowOk_edge : WindowOk edge := by unfold WindowOk; decide

/-- `half_length = 6 = KHALF_MAX` (V-K1). -/
theorem capacityOk_edge : CapacityOk edge := ⟨by decide +kernel, by decide +kernel⟩

theorem not_geometryOk_tooLarge : ¬ GeometryOk tooLarge := by unfold GeometryOk; decide

theorem inv_edge : Inv edge := by
  refine ⟨?_, ?_, ?_, ?_, by decide⟩
  · unfold MemoriesWf; decide +kernel
  · unfold StatusWf; decide +kernel
  · unfold KernelWf; decide +kernel
  · unfold TmpWf; decide +kernel

/-! ### Witnesses: the step -/

/-- The state with one host transaction to perform. -/
def asked (s : State) (ops : List HostOp) : State := { s with host := ops }

/-- `edge` while a command runs. -/
def busyEdge : State := { edge with status := 0xD }

theorem witness_StepRunsTheDecodedCommand :
    (asked edge [.writeReg 0 (.w32 0x104)]).host = .writeReg 0 (.w32 0x104) :: [] ∧ decode 0x104 = .ok .fir1dV ∧
      (asked edge [.writeReg 0 (.w32 0x104)]).flag .busy = false ∧
      (asked busyEdge [.writeReg 0 (.w32 0x104)]).host = .writeReg 0 (.w32 0x104) :: [] ∧
      (asked busyEdge [.writeReg 0 (.w32 0x104)]).flag .busy = true := by decide

theorem witness_ReservedWordEndsWithIllegalCommand :
    (asked edge [.writeReg 0 (.w32 0)]).host = .writeReg 0 (.w32 0) :: [] ∧
      (asked edge [.writeReg 0 (.w32 0)]).flag .busy = false ∧ ∀ i : Instr, (0 : Word) ≠ commandWord i := by
  refine ⟨rfl, by decide, ?_⟩
  intro i
  cases i <;> decide

theorem witness_BusyEngineRefusesEverythingElse :
    (asked busyEdge [.readReg 1]).host = .readReg 1 :: [] ∧ (asked busyEdge [.readReg 1]).flag .busy = true ∧
      (asked busyEdge [.readReg 0]).host = .readReg 0 :: [] ∧ (asked busyEdge [.readReg 0]).flag .busy = true ∧
      (asked busyEdge [.wait]).host = .wait :: [] ∧ (asked busyEdge [.wait]).flag .busy = true ∧
      (asked busyEdge [.reset]).host = .reset :: [] ∧ (asked busyEdge [.reset]).flag .busy = true := by decide

theorem witness_StatusReadReturnsTheFourFlags : (asked busyEdge [.readReg 1]).host = .readReg 1 :: [] := rfl

theorem witness_WaitRepeatsWhileBusy : (asked busyEdge [.wait]).host = .wait :: [] := rfl

theorem witness_HostResetClearsEverything : (asked busyEdge [.reset]).host = .reset :: [] := rfl

/-- The first number and the first index that do not exist, for each transaction. -/
theorem witness_NonexistentRegisterOrEntryIsRefused :
    edge.flag .busy = false ∧ 18 ≤ 18 ∧ edge.cap.entries .img ≤ 16 ∧ edge.cap.entries .tmp ≤ 16 ∧
      edge.cap.entries .kbuf ≤ 11 ∧
      (asked edge [.readReg 18]).host = .readReg 18 :: [] ∧
      (asked edge [.writeReg 18 (.w32 0)]).host = .writeReg 18 (.w32 0) :: [] ∧
      (asked edge [.readMem .kbuf 11]).host = .readMem .kbuf 11 :: [] ∧
      (asked edge [.writeMem .tmp 16 (.w32 0)]).host = .writeMem .tmp 16 (.w32 0) :: [] := by decide

theorem witness_RegisterReadReturnsTheLatestWrite :
    (asked edge [.writeReg 17 (.w64 oneF), .readReg 17]).host =
        .writeReg (regNumber .accB) (.w64 oneF) :: .readReg (regNumber .accB) :: [] ∧
      edge.flag .busy = false ∧ Reg.accB ∉ [Reg.cmd, .status, .errcode, .halflen, .klen] ∧
      (HostValue.w64 oneF).is64 = regIs64 (regNumber .accB) := by decide

/-- The registers of each clause: 3 and 4; 5 and 17; 1, 2, 7 and 8. -/
theorem witness_RegisterWriteSideEffects :
    edge.flag .busy = false ∧ ∀ e ∈ [(1, HostValue.w32 1), (2, .w32 1), (3, .w32 1), (4, .w32 1), (5, .w64 1), (7, .w32 1),
      (8, .w32 1), (17, .w64 1)],
      (asked edge [.writeReg e.1 e.2]).host = .writeReg e.1 e.2 :: [] ∧ e.1 ≠ 0 ∧ e.1 < 18 ∧ e.2.is64 = regIs64 e.1 := by
  decide

/-- The last word of `IMG`. -/
theorem witness_ImageReadReturnsTheLatestWrite :
    (asked edge [.writeMem .img 15 (.w32 7), .readMem .img 15]).host =
        .writeMem .img 15 (.w32 7) :: .readMem .img 15 :: [] ∧
      edge.flag .busy = false ∧ 15 < edge.cap.imgWords := by decide

/-- The last word of `TMP` and the last entry of `KBUF`. -/
theorem witness_ScratchWritesClearTheirFlag :
    edge.flag .busy = false ∧
      (asked edge [.writeMem .tmp 15 (.w32 7)]).host = .writeMem .tmp 15 (.w32 7) :: [] ∧ 15 < edge.cap.imgWords ∧
      (asked edge [.writeMem .kbuf 10 (.w64 7)]).host = .writeMem .kbuf 10 (.w64 7) :: [] ∧
      10 < 2 * edge.cap.khalfMax - 1 := by decide

/-- The last entry of each memory, and registers of each clause. -/
theorem witness_ReadsOfDefinedEntriesReturnTheContents :
    edge.flag .busy = false ∧ edge.flag .tvalid = true ∧ edge.flag .kvalid = true ∧ edge.kernelDiscarded = false ∧
      (asked edge [.readMem .img 15]).host = .readMem .img 15 :: [] ∧ 15 < edge.cap.imgWords ∧
      Memory.read edge.img 15 = some 0x007F7F7F ∧
      (asked edge [.readMem .tmp 15]).host = .readMem .tmp 15 :: [] ∧ Memory.read edge.tmp 15 = some 0x00777777 ∧
      (asked edge [.readMem .kbuf 10]).host = .readMem .kbuf 10 :: [] ∧ 10 < 2 * edge.cap.khalfMax - 1 ∧
      Memory.read edge.kbuf 10 = some 0x3EB8F16964C8FD3F ∧
      (∀ r ∈ [Reg.cmd, .status, .errcode, .halflen, .klen, .accB],
        (asked edge [.readReg (regNumber r)]).host = .readReg (regNumber r) :: []) := by
  decide

/-- The first and the last register, and the last entries of memories that hold nothing. -/
theorem witness_EveryReadAnswersAndChangesNothing :
    small.flag .busy = false ∧ (asked small [.readReg 0]).host = .readReg (regNumber .cmd) :: [] ∧
      (asked small [.readReg 17]).host = .readReg (regNumber .accB) :: [] ∧
      (asked small [.readMem .img 15]).host = .readMem .img 15 :: [] ∧ 15 < small.cap.entries .img ∧
      (asked small [.readMem .tmp 15]).host = .readMem .tmp 15 :: [] ∧ 15 < small.cap.entries .tmp ∧
      (asked small [.readMem .kbuf 10]).host = .readMem .kbuf 10 :: [] ∧ 10 < small.cap.entries .kbuf := by
  decide

theorem witness_CommandsIgnoreEarlierErrors :
    (asked edge [.writeReg 0 (.w32 7)]).host = .writeReg 0 (.w32 7) :: [] ∧ edge.flag .busy = false := by decide

theorem witness_StepKeepsTheInvariant : Inv edge ∧ step edge = .next edge := ⟨inv_edge, step_idle rfl⟩

theorem witness_DecodeAndEncodeAgreeOnTheTable : Instr.wf .fir1dV = true := rfl

/-! ### Witnesses: the commands -/

/-- The greatest and the least accumulator on the defined line of R118 (V-P1). -/
theorem witness_PackTruncatesShiftsAndOrs :
    let s : State := { small with accR := 0x41DFFFFFFFE00000, accG := 0xC1E0000000100000, accB := oneF }
    s.accR.isFinite = true ∧ s.accG.isFinite = true ∧ s.accB.isFinite = true ∧
      (2 ^ 31 - 1 : Int) = towardZero (toRat s.accR) ∧ (-2 ^ 31 : Int) = towardZero (toRat s.accG) ∧
      (1 : Int) = towardZero (toRat s.accB) ∧
      ∀ z ∈ [(2 ^ 31 - 1 : Int), -2 ^ 31, 1], -2 ^ 31 ≤ z ∧ z ≤ 2 ^ 31 - 1 := by
  simp only [towardZero_toRat]
  decide +kernel

theorem witness_UnpackOfPackGivesTheTruncations :
    let c : Rgb F64 := ⟨0x406FFFF7CED91687, 0x8000000000000000, oneF⟩
    c.r.isFinite = true ∧ c.g.isFinite = true ∧ c.b.isFinite = true ∧
      ((255 : Nat) : Int) = towardZero (toRat c.r) ∧ ((0 : Nat) : Int) = towardZero (toRat c.g) ∧
      ((1 : Nat) : Int) = towardZero (toRat c.b) ∧ 255 < 256 ∧ 0 < 256 ∧ 1 < 256 := by
  simp only [towardZero_toRat]
  decide +kernel

/-- With `KVALID` 0 and with `KVALID` 1. -/
theorem witness_KgenLeavesTheKernel :
    SigmaOk edge ∧ CapacityOk edge ∧ 6 = halfLength (num edge.draws) edge.sigma ∧ edge.flag .kvalid = true ∧
      SigmaOk { edge with status := 0 } ∧ CapacityOk { edge with status := 0 } ∧
      State.flag { edge with status := 0 } .kvalid = false ∧ 6 < 2 ^ 32 ∧ 2 * 6 - 1 < 2 ^ 32 :=
  ⟨sigmaOk_edge, capacityOk_edge, by decide +kernel, by decide, sigmaOk_edge, capacityOk_edge, by decide, by decide,
    by decide⟩

theorem witness_KernelIsSymmetricBitForBit :
    SigmaOk edge ∧ CapacityOk edge ∧ 6 = halfLength (num edge.draws) edge.sigma ∧
      exec .kgen edge = .next (kgenDone edge) ∧ 0 < 2 * 6 - 1 := by
  refine ⟨sigmaOk_edge, capacityOk_edge, by decide +kernel, ?_, by decide⟩
  obtain ⟨h, -⟩ | ⟨-, h, -⟩ | ⟨-, -, h⟩ := execKgen_cases edge
  · exact absurd h (by decide)
  · rw [(exceedsKernelCapacity_eq_false edge).2 capacityOk_edge] at h
    exact absurd h (by decide)
  · exact h

/-- Sigma `+0.0`; then a half-length one above `KHALF_MAX`. -/
theorem witness_KgenErrors :
    ¬ SigmaOk { edge with sigma := 0 } ∧ SigmaOk { edge with cap := ⟨16, 5⟩ } ∧ ¬ CapacityOk { edge with cap := ⟨16, 5⟩ } :=
  ⟨fun h => absurd ((toRat_pos _).1 h.2) (by decide +kernel), sigmaOk_edge, fun h => absurd h.2 (by decide +kernel)⟩

theorem witness_Fir1dHLeavesTheRowSums :
    GeometryOk edge ∧ edge.flag .kvalid = true ∧ PositionOk edge ∧ WindowOk edge :=
  ⟨geometryOk_edge, by decide, positionOk_edge, windowOk_edge⟩

theorem witness_Fir1dVLeavesTheColumnSums :
    GeometryOk edge ∧ edge.flag .kvalid = true ∧ edge.flag .tvalid = true ∧ PositionOk edge ∧ WindowOk edge :=
  ⟨geometryOk_edge, by decide, by decide, positionOk_edge, windowOk_edge⟩

/-- The clauses of the operand error: a flag, a row or column one too far, a radius one too great. -/
theorem witness_Fir1dErrors :
    ¬ GeometryOk tooLarge ∧ GeometryOk { edge with status := 0 } ∧ State.flag { edge with status := 0 } .kvalid = false ∧
      State.flag { edge with status := 4 } .tvalid = false ∧ ¬ PositionOk { edge with row := 4 } ∧
      ¬ PositionOk { edge with col := 4 } ∧ ¬ WindowOk { edge with radius := 6 } := by
  refine ⟨not_geometryOk_tooLarge, geometryOk_edge, by decide, by decide, ?_⟩
  unfold PositionOk WindowOk
  decide

/-- With `TVALID` 1 and with `TVALID` 0. -/
theorem witness_HpassWritesThePackedRowSums :
    GeometryOk edge ∧ edge.flag .kvalid = true ∧ WindowOk edge ∧ edge.flag .tvalid = true ∧
      State.flag { edge with status := 4 } .kvalid = true ∧ State.flag { edge with status := 4 } .tvalid = false :=
  ⟨geometryOk_edge, by decide, windowOk_edge, by decide, by decide, by decide⟩

theorem witness_VpassWritesThePackedColumnSums :
    GeometryOk edge ∧ edge.flag .kvalid = true ∧ edge.flag .tvalid = true ∧ WindowOk edge :=
  ⟨geometryOk_edge, by decide, by decide, windowOk_edge⟩

theorem witness_VpassDoesNotReadTheImage :
    GeometryOk edge ∧ edge.flag .kvalid = true ∧ edge.flag .tvalid = true ∧ WindowOk edge :=
  witness_VpassWritesThePackedColumnSums

theorem witness_PassErrors :
    ¬ GeometryOk tooLarge ∧ GeometryOk { edge with status := 0 } ∧ State.flag { edge with status := 0 } .kvalid = false ∧
      State.flag { edge with status := 4 } .tvalid = false ∧ ¬ WindowOk { edge with radius := 6 } := by
  refine ⟨not_geometryOk_tooLarge, geometryOk_edge, by decide, by decide, ?_⟩
  unfold WindowOk
  decide

theorem witness_BlurIsTheTwoPasses :
    SigmaOk edge ∧ GeometryOk edge ∧ CapacityOk edge ∧ 3 = 3 * ⌊toRat edge.sigma⌋.toNat ∧
      ∀ n : Nat, n ≤ 2 * 3 → kernelWeight (num edge.draws) edge.sigma n = kernelWeight (num edge.draws) edge.sigma n := by
  refine ⟨sigmaOk_edge, geometryOk_edge, capacityOk_edge, ?_, fun _ _ => rfl⟩
  have h : toRat edge.sigma = 1 := oneF_toRat
  rw [h]
  norm_num

/-- The three clauses. -/
theorem witness_BlurErrors :
    ¬ SigmaOk { edge with sigma := 0x7FF0000000000000 } ∧ SigmaOk tooLarge ∧ ¬ GeometryOk tooLarge ∧
      SigmaOk { edge with cap := ⟨16, 5⟩ } ∧ GeometryOk { edge with cap := ⟨16, 5⟩ } ∧
      ¬ CapacityOk { edge with cap := ⟨16, 5⟩ } :=
  ⟨fun h => absurd h.1 (by decide), sigmaOk_edge, not_geometryOk_tooLarge, sigmaOk_edge, geometryOk_edge,
    fun h => absurd h.2 (by decide +kernel)⟩

theorem witness_BlurEqualsKgenHpassVpass :
    SigmaOk edge ∧ GeometryOk edge ∧ CapacityOk edge ∧ 3 = blurRadius (num edge.draws) edge.sigma ∧
      6 = halfLength (num edge.draws) edge.sigma ∧ 2 * 6 < 2 ^ 32 ∧ 2 * 3 + 1 ≤ 2 * 6 - 1 :=
  ⟨sigmaOk_edge, geometryOk_edge, capacityOk_edge, by decide +kernel, by decide +kernel, by decide, by decide⟩

theorem exec_sharpen_edge : exec .sharpen edge = .next (sharpenDone edge) := by
  obtain ⟨h, -⟩ | ⟨-, h⟩ := execSharpen_cases edge
  · rw [(geometryExceeds_eq_false edge).2 geometryOk_edge] at h
    exact absurd h (by decide)
  · exact h

/-- The first interior pixel and the last. -/
theorem witness_SharpenWritesTheKernelSums :
    GeometryOk edge ∧ 1 ≤ 1 ∧ 1 + 2 ≤ edge.h.toNat ∧ 2 + 2 ≤ edge.w.toNat := ⟨geometryOk_edge, by decide⟩

/-- A border pixel for each of the four clauses. -/
theorem witness_SharpenBlacksTheBorder :
    GeometryOk edge ∧ exec .sharpen edge = .next (sharpenDone edge) ∧ 3 ≤ edge.h.toNat ∧ 3 ≤ edge.w.toNat ∧
      ∀ p ∈ [(0, 1), (3, 1), (1, 0), (1, 3)], p.1 < edge.h.toNat ∧ p.2 < edge.w.toNat ∧
        (p.1 = 0 ∨ p.1 = edge.h.toNat - 1 ∨ p.2 = 0 ∨ p.2 = edge.w.toNat - 1) :=
  ⟨geometryOk_edge, exec_sharpen_edge, by decide⟩

/-- Two rows; then two columns. -/
theorem witness_SharpenBlacksASmallImage :
    GeometryOk { edge with h := 2 } ∧ State.h { edge with h := 2 } = 2 ∧ GeometryOk { edge with w := 2 } ∧
      State.w { edge with w := 2 } = 2 := by
  unfold GeometryOk
  decide

theorem witness_SharpenKeepsBalancedPixels :
    GeometryOk edge ∧ exec .sharpen edge = .next (sharpenDone edge) ∧ 1 ≤ 1 ∧ 1 + 2 ≤ edge.h.toNat ∧
      1 + 2 ≤ edge.w.toNat ∧
      ∀ shift ∈ [16, 8, 0],
        channel (imgWord edge ((1 - 1) * edge.w.toNat + 1)) shift + channel (imgWord edge ((1 + 1) * edge.w.toNat + 1)) shift +
          channel (imgWord edge (1 * edge.w.toNat + (1 - 1))) shift + channel (imgWord edge (1 * edge.w.toNat + (1 + 1))) shift =
            4 * channel (imgWord edge (1 * edge.w.toNat + 1)) shift :=
  ⟨geometryOk_edge, exec_sharpen_edge, by decide, by decide, by decide, by decide +kernel⟩

theorem witness_SharpenGeometryError : ¬ GeometryOk tooLarge := not_geometryOk_tooLarge

theorem witness_SharpenIgnoresSigmaAndKernel : exec .sharpen edge = .next (sharpenDone edge) := exec_sharpen_edge

/-! ### Witnesses: every command -/

theorem witness_ErrorsLeaveTheDataState :
    edge.flag .err = false ∧ exec .fir1dH tooLarge = .next (raiseError .geometry tooLarge) ∧
      (raiseError .geometry tooLarge).flag .err = true := by
  refine ⟨by decide, ?_, by decide⟩
  obtain ⟨-, h⟩ | ⟨h, -⟩ | ⟨h, -⟩ := execFir1dH_cases tooLarge
  · exact h
  · exact absurd ((geometryExceeds_eq_false _).1 h) not_geometryOk_tooLarge
  · exact absurd ((geometryExceeds_eq_false _).1 h) not_geometryOk_tooLarge

theorem witness_CommandsDoNotWriteHostRegisters : exec .sharpen edge = .next (sharpenDone edge) := exec_sharpen_edge

theorem witness_ImageOutsideThePrefixIsUnchanged :
    exec .sharpen edge = .next (sharpenDone edge) ∧ Instr.unpack ∈ [Instr.unpack, .pack, .kgen, .fir1dH, .fir1dV, .hpass] :=
  ⟨exec_sharpen_edge, by decide⟩

/-! ### Witnesses: numerics -/

theorem witness_AdditionIsCorrectlyRounded :
    F64.isFinite 0x7FEFFFFFFFFFFFFF = true ∧ F64.isFinite 0x8000000000000001 = true := by decide

theorem witness_MultiplicationIsCorrectlyRounded : F64.isFinite oneF = true ∧ F64.isFinite 0x0000000000000001 = true := by
  decide

theorem witness_DivisionIsCorrectlyRounded :
    F64.isFinite oneF = true ∧ F64.isFinite 0x0000000000000001 = true ∧ toRat 0x0000000000000001 ≠ 0 :=
  ⟨by decide, by decide, fun h => absurd ((toRat_eq_zero _).1 h) (by decide +kernel)⟩

theorem witness_SquareRootIsCorrectlyRounded : F64.isFinite oneF = true ∧ 0 ≤ toRat oneF :=
  ⟨by decide, by rw [oneF_toRat]; norm_num⟩

/-- Operands for each of the seven clauses. -/
theorem witness_SpecialOperandsOfTheOperations :
    F64.isFinite oneF = true ∧ toRat oneF ≠ 0 ∧ F64.isZero 0x8000000000000000 = true ∧ F64.isZero 0 = true ∧
      F64.isInf 0x7FF0000000000000 = true ∧ F64.isInf 0xFFF0000000000000 = true ∧
      F64.sign 0x7FF0000000000000 ≠ F64.sign 0xFFF0000000000000 ∧ F64.isFinite 0xBFF0000000000000 = true ∧
      toRat 0xBFF0000000000000 < 0 ∧ F64.isNaN 0x7FF8000000000000 = true :=
  ⟨by decide, by rw [oneF_toRat]; norm_num, by decide, by decide, by decide, by decide, by decide, by decide,
    (toRat_neg _).2 (by decide +kernel), by decide⟩

theorem witness_TruncationIsTowardZero : truncI32 0x41DFFFFFFFE00000 = some 0x7FFFFFFF := by decide +kernel

theorem witness_CeilFloorAndOfIntAreExact :
    F64.isFinite oneF = true ∧ (∃ z : Int, toRat oneF = z) ∧ F64.isInf 0x7FF0000000000000 = true ∧
      F64.isNaN 0x7FF8000000000000 = true ∧ |(2 ^ 53 - 1 : Int)| < 2 ^ 53 :=
  ⟨by decide, ⟨1, by rw [oneF_toRat]; norm_num⟩, by decide, by decide, by norm_num⟩

/-- The least positive value; one at which `hf` is finite. -/
theorem witness_BlurWindowFitsTheKernel :
    validSigma 0x0000000000000001 = true ∧ validSigma oneF = true ∧ (halfLengthF (num 0) oneF).isFinite = true := by
  decide +kernel

theorem witness_FexpExactPointsAndRange :
    F64.isNaN 0x7FF8000000000000 = true ∧ F64.isFinite 0xBFF0000000000000 = true ∧ toRat 0xBFF0000000000000 ≤ 0 ∧
      F64.isFinite 0xC093880000000000 = true ∧ toRat 0xC093880000000000 ≤ -1250 :=
  ⟨by decide, by decide, ((toRat_neg _).2 (by decide +kernel)).le, by decide,
    (toRat_of_signedMag (z := -1250) (by decide +kernel)).le.trans (by norm_num)⟩

theorem witness_FexpIsNonDecreasing :
    F64.isFinite 0xC000000000000000 = true ∧ F64.isFinite 0xBFF0000000000000 = true ∧
      toRat 0xC000000000000000 ≤ toRat 0xBFF0000000000000 ∧ toRat 0xBFF0000000000000 ≤ 0 :=
  ⟨by decide, by decide, (toRat_le _ _).2 (by decide +kernel), ((toRat_neg _).2 (by decide +kernel)).le⟩

theorem witness_FexpBracketsTheExponential :
    F64.isFinite 0xBFF0000000000000 = true ∧ toRat 0xBFF0000000000000 < 0 :=
  ⟨by decide, (toRat_neg _).2 (by decide +kernel)⟩

end Sys2Proof.Tests
end

/-!
PROOFS. The family of `10_state.md`: `STATUS`, what a command and a transaction can leave, the invariant of the machine.
-/
namespace Sys2Proof.Machine

/-! ### STATUS -/

/-- A `STATUS` word is its four fields and its reserved bits. -/
theorem status_ext {a b : Word} (hf : ∀ f : Flag, statusFlag a f = statusFlag b f)
    (hr : ∀ i : Nat, 4 ≤ i → a.getLsbD i = b.getLsbD i) : a = b := by
  refine BitVec.eq_of_getLsbD_eq fun i _ => ?_
  match i with
  | 0 => exact hf .busy
  | 1 => exact hf .err
  | 2 => exact hf .kvalid
  | 3 => exact hf .tvalid
  | k + 4 => exact hr _ (by omega)

/-- Of two writes of one field the second counts. -/
@[simp] theorem setStatusFlag_setStatusFlag_same (st : Word) (f : Flag) (v w : Bool) :
    setStatusFlag (setStatusFlag st f v) f w = setStatusFlag st f w := by
  refine status_ext (fun g => ?_) fun i hi => by simp [hi]
  simp only [statusFlag_setStatusFlag]
  split <;> rfl

/-- The fields read as they stand (R30). -/
theorem statusReads_getLsbD_bit (st : Word) (f : Flag) : (statusReads st).getLsbD f.bit = statusFlag st f := by
  cases f <;> simp [statusReads, statusFlag, Flag.bit]

/-- Bits 31:4 read as zero (R30). -/
theorem statusReads_getLsbD_reserved (st : Word) {i : Nat} (h : 4 ≤ i) : (statusReads st).getLsbD i = false := by
  have hF : (0xF#32).getLsbD i = false := 
    Nat.testBit_lt_two_pow (lt_of_lt_of_le (by decide : 15 < 2 ^ 4) (Nat.pow_le_pow_right (by decide) h))
  rw [statusReads, BitVec.getLsbD_and, hF, Bool.and_false]

theorem statusReads_lt (st : Word) : (statusReads st).toNat < 16 := by
  rw [statusReads, BitVec.toNat_and]
  exact lt_of_le_of_lt Nat.and_le_right (by decide)

/-- A word reads as itself exactly when its reserved bits are zero. -/
theorem statusReads_eq_self_iff (st : Word) : statusReads st = st ↔ ∀ i : Nat, 4 ≤ i → st.getLsbD i = false := by
  constructor
  · intro h i hi
    rw [← h, statusReads_getLsbD_reserved st hi]
  · intro h
    exact status_ext (statusReads_getLsbD_bit st) fun i hi => by rw [statusReads_getLsbD_reserved st hi, h i hi]

/-- A write of a field keeps the reserved bits zero. -/
theorem statusReads_setStatusFlag {st : Word} (f : Flag) (v : Bool) (h : statusReads st = st) :
    statusReads (setStatusFlag st f v) = setStatusFlag st f v := by
  rw [statusReads_eq_self_iff] at h ⊢
  intro i hi
  rw [getLsbD_setStatusFlag_reserved st f v hi, h i hi]

/-- A write of one field keeps every other bit of `STATUS`. -/
theorem keepsFlags_setFlag (s : State) (f : Flag) (v : Bool) : KeepsFlags [f] s (s.setFlag f v) :=
  ⟨fun g hg => flag_setFlag_ne s v (by simpa using hg), fun _ hb => getLsbD_setStatusFlag_reserved s.status f v hb⟩

/-! ### What a command can leave -/

/-- What an error of a command may have done before it ended: discarded the kernel, the intermediate image, or both. -/
def Discards (s u : State) : Prop :=
  u = s ∨ u = discardKernel s ∨ u = discardTmp s ∨ u = discardTmp (discardKernel s)

/-- The states a command can end in: an error after a discard, or the command's own result under its guards. -/
inductive CommandEnds (s : State) : Instr → State → Prop
  | error {i : Instr} (e : CmdError) (u : State) (hu : Discards s u) : CommandEnds s i (raiseError e u)
  | unpack : CommandEnds s .unpack (endCommand { s with
      chR := (unpack s.pix).r, chG := (unpack s.pix).g, chB := (unpack s.pix).b })
  | pack : CommandEnds s .pack (endCommand { s with
      pix := packOrDraw (num s.draws) s.draws .pix ⟨s.accR, s.accG, s.accB⟩ })
  | kgen (hc : CapacityOk s) : CommandEnds s .kgen (kgenDone s)
  | fir1dH : CommandEnds s .fir1dH (fir1dHDone s)
  | fir1dV : CommandEnds s .fir1dV (fir1dVDone s)
  | hpass (hg : GeometryOk s) : CommandEnds s .hpass (hpassDone s)
  | vpass (hg : GeometryOk s) : CommandEnds s .vpass (vpassDone s)
  | blur (hg : GeometryOk s) : CommandEnds s .blur (blurDone s)
  | sharpen (hg : GeometryOk s) : CommandEnds s .sharpen (sharpenDone s)

theorem Discards.refl (s : State) : Discards s s := .inl rfl

theorem discards_kernel (s : State) : Discards s (discardKernel s) := .inr (.inl rfl)

theorem discards_tmp (s : State) : Discards s (discardTmp s) := .inr (.inr (.inl rfl))

theorem discards_both (s : State) : Discards s (discardTmp (discardKernel s)) := .inr (.inr (.inr rfl))

/-- Every command ends, in one of those states (R212). -/
theorem exec_ends (i : Instr) (s : State) : ∃ t, exec i s = .next t ∧ CommandEnds s i t := by
  cases i with
  | unpack => exact ⟨_, execUnpack_eq s, .unpack⟩
  | pack => exact ⟨_, execPack_eq s, .pack⟩
  | kgen =>
    obtain ⟨-, h⟩ | ⟨-, -, h⟩ | ⟨-, hc, h⟩ := execKgen_cases s
    · exact ⟨_, h, .error _ _ (discards_kernel s)⟩
    · exact ⟨_, h, .error _ _ (discards_kernel s)⟩
    · exact ⟨_, h, .kgen ((exceedsKernelCapacity_eq_false s).1 hc)⟩
  | fir1dH =>
    obtain ⟨-, h⟩ | ⟨-, -, h⟩ | ⟨-, -, -, -, h⟩ := execFir1dH_cases s
    · exact ⟨_, h, .error _ _ (.refl s)⟩
    · exact ⟨_, h, .error _ _ (.refl s)⟩
    · exact ⟨_, h, .fir1dH⟩
  | fir1dV =>
    obtain ⟨-, h⟩ | ⟨-, -, h⟩ | ⟨-, -, -, -, -, h⟩ := execFir1dV_cases s
    · exact ⟨_, h, .error _ _ (.refl s)⟩
    · exact ⟨_, h, .error _ _ (.refl s)⟩
    · exact ⟨_, h, .fir1dV⟩
  | hpass =>
    obtain ⟨-, h⟩ | ⟨-, -, h⟩ | ⟨hg, -, -, h⟩ := execHpass_cases s
    · exact ⟨_, h, .error _ _ (discards_tmp s)⟩
    · exact ⟨_, h, .error _ _ (discards_tmp s)⟩
    · exact ⟨_, h, .hpass ((geometryExceeds_eq_false s).1 hg)⟩
  | vpass =>
    obtain ⟨-, h⟩ | ⟨-, -, h⟩ | ⟨hg, -, -, -, h⟩ := execVpass_cases s
    · exact ⟨_, h, .error _ _ (.refl s)⟩
    · exact ⟨_, h, .error _ _ (.refl s)⟩
    · exact ⟨_, h, .vpass ((geometryExceeds_eq_false s).1 hg)⟩
  | blur =>
    obtain ⟨-, h⟩ | ⟨-, -, h⟩ | ⟨-, -, -, h⟩ | ⟨-, hg, -, h⟩ := execBlur_cases s
    · exact ⟨_, h, .error _ _ (discards_both s)⟩
    · exact ⟨_, h, .error _ _ (discards_both s)⟩
    · exact ⟨_, h, .error _ _ (discards_both s)⟩
    · exact ⟨_, h, .blur ((geometryExceeds_eq_false s).1 hg)⟩
  | sharpen =>
    obtain ⟨-, h⟩ | ⟨hg, h⟩ := execSharpen_cases s
    · exact ⟨_, h, .error _ _ (discards_tmp s)⟩
    · exact ⟨_, h, .sharpen ((geometryExceeds_eq_false s).1 hg)⟩

theorem commandEnds_of_exec {i : Instr} {s t : State} (h : exec i s = .next t) : CommandEnds s i t := by
  obtain ⟨u, hu, he⟩ := exec_ends i s
  rw [h] at hu
  cases hu
  exact he

/-- An error's discard changes nothing but the two validity flags and the mark of a discarded kernel. -/
theorem Discards.eq_with {s u : State} (h : Discards s u) :
    u = { s with status := u.status, kernelDiscarded := u.kernelDiscarded } := by
  obtain rfl | rfl | rfl | rfl := h <;> rfl

/-- No command writes a register that only the host writes (R22), a capacity, or the host's side. -/
theorem CommandEnds.keeps_host {i : Instr} {s t : State} (h : CommandEnds s i t) :
    (∀ r ∈ [Reg.cmd, .w, .h, .sigma, .radius, .row, .col], contents t r = contents s r) ∧ KeepsHost s t := by
  cases h with
  | error e u hu =>
    rw [hu.eq_with]
    simp [contents, KeepsHost]
  | _ =>
    simp [contents, KeepsHost, kgenDone, fir1dHDone, fir1dVDone, hpassDone, vpassDone, blurDone, sharpenDone]

/-- A command keeps the image, or it is VPASS, BLUR or SHARPEN and writes its first `W * H` words (R47). -/
theorem CommandEnds.img_cases {i : Instr} {s t : State} (h : CommandEnds s i t) :
    t.img = s.img ∨ i ∈ [Instr.vpass, .blur, .sharpen] ∧
      ∃ ws : List Word, ws.length = pixelCount s ∧ t.img = Memory.writePrefix s.img ws := by
  cases h with
  | error e u hu =>
    rw [hu.eq_with]
    exact .inl rfl
  | vpass => exact .inr ⟨by decide, _, verticalPass_length .., rfl⟩
  | blur => exact .inr ⟨by decide, _, blurImage_length s, rfl⟩
  | sharpen => exact .inr ⟨by decide, _, sharpenWords_length .., rfl⟩
  | _ => exact .inl rfl

/-- Settles O40: every state a command can end in has them as before. -/
theorem commandsDoNotWriteHostRegisters : Obligations.CommandsDoNotWriteHostRegisters :=
  fun _ _ _ h => (commandEnds_of_exec h).keeps_host

/-- Settles O41: the image is kept, or its first `W * H` words are written by one of the three commands that write it. -/
theorem imageOutsideThePrefixIsUnchanged : Obligations.ImageOutsideThePrefixIsUnchanged := by
  intro i s t h
  obtain hk | ⟨hi, ws, hlen, hw⟩ := (commandEnds_of_exec h).img_cases
  · rw [KeepsImg, hk]
    exact ⟨.refl _ _, fun _ => .refl _ _⟩
  · refine ⟨?_, fun hn => ?_⟩
    · have := KeepsFrom.writePrefix s.img ws
      rwa [hlen, ← hw] at this
    · exact absurd hn (by revert hi; cases i <;> decide)

/-! ### The invariant: memories -/

/-- One memory in canonical form, inside its capacity. -/
def MemoryOk {n : Nat} (m : Memory n) (entries : Nat) : Prop := Memory.wf m = true ∧ Memory.within m entries = true

theorem memoriesWf_iff (s : State) :
    MemoriesWf s ↔ MemoryOk s.img (s.cap.entries .img) ∧ MemoryOk s.tmp (s.cap.entries .tmp) ∧
      MemoryOk s.kbuf (s.cap.entries .kbuf) := by
  unfold MemoriesWf MemoryOk
  tauto

section
variable {n k : Nat} {m : Memory n}

theorem MemoryOk.nil : MemoryOk ([] : Memory n) k := ⟨rfl, rfl⟩

theorem MemoryOk.write {i : Nat} (h : MemoryOk m k) (v : BitVec n) (hi : i < k) : MemoryOk (Memory.write m i v) k :=
  ⟨Memory.write_wf i v h.1, Memory.write_within v h.2 hi⟩

theorem MemoryOk.writePrefix {vs : List (BitVec n)} (h : MemoryOk m k) (hv : vs.length ≤ k) :
    MemoryOk (Memory.writePrefix m vs) k :=
  ⟨Memory.writePrefix_wf vs h.1, Memory.writePrefix_within h.2 hv⟩

theorem MemoryOk.observed (h : MemoryOk m k) (valid : Bool) : MemoryOk (Memory.observed valid m) k :=
  ⟨Memory.observed_wf valid h.1, Memory.observed_within valid h.2⟩

end

/-! ### The invariant: what holds inside a command too -/

/-- The invariant but for `STATUS`, whose `BUSY`, `ERR` and `ERRCODE` a command writes as it goes (R92). -/
def DataInv (s : State) : Prop := MemoriesWf s ∧ KernelWf s ∧ TmpWf s ∧ 1 ≤ s.cap.khalfMax

theorem inv_iff (s : State) : Inv s ↔ DataInv s ∧ StatusWf s := by
  unfold Inv DataInv
  tauto

/-- With `KVALID = 0` nothing is claimed of the kernel. -/
theorem kernelWf_of_invalid {s : State} (h : s.flag .kvalid = false) : KernelWf s := fun hk => by simp [h] at hk

/-- With `TVALID = 0` nothing is claimed of the intermediate image. -/
theorem tmpWf_of_invalid {s : State} (h : s.flag .tvalid = false) : TmpWf s := fun ht => by simp [h] at ht

theorem kernelWf_setFlag_iff (s : State) {f : Flag} (v : Bool) (h : f ≠ .kvalid) :
    KernelWf (s.setFlag f v) ↔ KernelWf s := by
  unfold KernelWf
  rw [flag_setFlag_ne s v h.symm]
  rfl

theorem tmpWf_setFlag_iff (s : State) {f : Flag} (v : Bool) (h : f ≠ .tvalid) : TmpWf (s.setFlag f v) ↔ TmpWf s := by
  unfold TmpWf
  rw [flag_setFlag_ne s v h.symm]
  rfl

/-- The part of the invariant beside `STATUS` does not see a flag that is no validity flag. -/
theorem dataInv_setFlag_iff (s : State) {f : Flag} (v : Bool) (hk : f ≠ .kvalid) (ht : f ≠ .tvalid) :
    DataInv (s.setFlag f v) ↔ DataInv s := by
  unfold DataInv
  rw [kernelWf_setFlag_iff s v hk, tmpWf_setFlag_iff s v ht]
  rfl

theorem dataInv_endCommand_iff (s : State) : DataInv (endCommand s) ↔ DataInv s :=
  dataInv_setFlag_iff s false (by decide) (by decide)

theorem dataInv_raiseError_iff (e : CmdError) (s : State) : DataInv (raiseError e s) ↔ DataInv s := by
  unfold raiseError
  rw [dataInv_setFlag_iff _ _ (by decide) (by decide), dataInv_setFlag_iff _ _ (by decide) (by decide)]
  rfl

theorem dataInv_issueCommand_iff (c : Word) (s : State) : DataInv (issueCommand c s) ↔ DataInv s := by
  change DataInv (({ s with cmd := c, errcode := 0 }.setFlag .busy true).setFlag .err false) ↔ _
  rw [dataInv_setFlag_iff _ _ (by decide) (by decide), dataInv_setFlag_iff _ _ (by decide) (by decide)]
  rfl

/-- A discarded kernel may hold anything that fits `KBUF`. -/
theorem DataInv.discardKernel_with {s : State} (h : DataInv s) {m : Memory 64} (hm : MemoryOk m (s.cap.entries .kbuf)) :
    DataInv (discardKernel { s with kbuf := m }) := by
  obtain ⟨hmem, -, ht, hc⟩ := h
  obtain ⟨hi, htmp, -⟩ := (memoriesWf_iff s).1 hmem
  refine ⟨(memoriesWf_iff _).2 ⟨hi, htmp, hm⟩, kernelWf_of_invalid (flag_discardKernel _ _), ?_, hc⟩
  exact (tmpWf_setFlag_iff { s with kbuf := m } false (by decide)).2 ht

/-- A discarded intermediate image may be of any size and hold anything that fits `TMP`. -/
theorem DataInv.discardTmp_with {s : State} (h : DataInv s) {m : Memory 32} (hm : MemoryOk m (s.cap.entries .tmp))
    (w' h' : Word) : DataInv (discardTmp { s with tmp := m, w := w', h := h' }) := by
  obtain ⟨hmem, hk, -, hc⟩ := h
  obtain ⟨hi, -, hkbuf⟩ := (memoriesWf_iff s).1 hmem
  refine ⟨(memoriesWf_iff _).2 ⟨hi, hm, hkbuf⟩, ?_, tmpWf_of_invalid (flag_discardTmp _ _), hc⟩
  exact (kernelWf_setFlag_iff { s with tmp := m, w := w', h := h' } false (by decide)).2 hk

theorem DataInv.with_img {s : State} (h : DataInv s) {m : Memory 32} (hm : MemoryOk m (s.cap.entries .img)) :
    DataInv { s with img := m } := by
  obtain ⟨hmem, hk, ht, hc⟩ := h
  obtain ⟨-, htmp, hkbuf⟩ := (memoriesWf_iff s).1 hmem
  exact ⟨(memoriesWf_iff _).2 ⟨hm, htmp, hkbuf⟩, hk, ht, hc⟩

theorem DataInv.img_ok {s : State} (h : DataInv s) : MemoryOk s.img (s.cap.entries .img) := ((memoriesWf_iff s).1 h.1).1

theorem DataInv.tmp_ok {s : State} (h : DataInv s) : MemoryOk s.tmp (s.cap.entries .tmp) :=
  ((memoriesWf_iff s).1 h.1).2.1

theorem DataInv.kbuf_ok {s : State} (h : DataInv s) : MemoryOk s.kbuf (s.cap.entries .kbuf) :=
  ((memoriesWf_iff s).1 h.1).2.2

theorem DataInv.discardKernel {s : State} (h : DataInv s) : DataInv (discardKernel s) := h.discardKernel_with h.kbuf_ok

theorem DataInv.discardTmp {s : State} (h : DataInv s) : DataInv (discardTmp s) := h.discardTmp_with h.tmp_ok s.w s.h

theorem Discards.dataInv {s u : State} (hu : Discards s u) (h : DataInv s) : DataInv u := by
  obtain rfl | rfl | rfl | rfl := hu
  · exact h
  · exact h.discardKernel
  · exact h.discardTmp
  · exact h.discardKernel.discardTmp

/-- A KGEN whose kernel fits leaves `2 * half_length - 1` weights, all inside `KBUF`, and lengths that say so (R141). -/
theorem DataInv.kgenDone {s : State} (h : DataInv s) (hc : CapacityOk s) : DataInv (kgenDone s) := by
  obtain ⟨-, hfit⟩ := hc
  have hlen := generate_length (num s.draws) s.sigma
  have hentries : s.cap.entries .kbuf = 2 * s.cap.khalfMax - 1 := rfl
  have hkbuf : MemoryOk (Memory.writePrefix (Memory.observed (s.flag .kvalid) s.kbuf) (generate (num s.draws) s.sigma))
      (s.cap.entries .kbuf) := (h.kbuf_ok.observed _).writePrefix (by omega)
  obtain ⟨hmem, -, ht, hmax⟩ := h
  obtain ⟨hi, htmp, -⟩ := (memoriesWf_iff s).1 hmem
  refine (dataInv_endCommand_iff _).2 ⟨(memoriesWf_iff _).2 ⟨hi, htmp, hkbuf⟩, fun _ => ⟨rfl, fun hsmall => ?_, ?_⟩,
    (tmpWf_setFlag_iff _ true (by decide)).2 ht, hmax⟩
  · have hsmall : s.cap.khalfMax ≤ 2 ^ 31 := hsmall
    change (lengthWord _ _ _).toNat = 2 * (lengthWord _ _ _).toNat - 1
    rw [lengthWord_toNat _ _ (by omega), lengthWord_toNat _ _ (by omega)]
  · refine Memory.writePrefix_definedBelow _ _ ?_
    rw [hlen]
    exact lengthWord_toNat_le ..

/-- A HPASS of a fitting image defines its `W * H` words of `TMP` (R161). -/
theorem DataInv.hpassDone {s : State} (h : DataInv s) (hg : GeometryOk s) : DataInv (hpassDone s) := by
  have hlen := horizontalPass_length (num s.draws) s.draws (imgWord s) s.w.toNat s.h.toNat s.radius.toNat (kernelEntry s)
  have htmp := (h.tmp_ok.observed (s.flag .tvalid)).writePrefix (hlen.trans_le hg)
  obtain ⟨hmem, hk, -, hmax⟩ := h
  obtain ⟨hi, -, hkbuf⟩ := (memoriesWf_iff s).1 hmem
  refine (dataInv_endCommand_iff _).2 ⟨(memoriesWf_iff _).2 ⟨hi, htmp, hkbuf⟩,
    (kernelWf_setFlag_iff _ true (by decide)).2 hk, fun _ => ⟨hg, ?_⟩, hmax⟩
  exact Memory.writePrefix_definedBelow _ _ hlen.ge

/-- A BLUR leaves both scratch memories empty and both flags 0 (R35, R166). -/
theorem DataInv.blurDone {s : State} (h : DataInv s) (hg : GeometryOk s) : DataInv (blurDone s) := by
  have himg := h.img_ok.writePrefix ((blurImage_length s).trans_le hg)
  obtain ⟨-, -, -, hmax⟩ := h
  exact (dataInv_endCommand_iff _).2 ⟨(memoriesWf_iff _).2 ⟨himg, .nil, .nil⟩,
    kernelWf_of_invalid ((flag_discardTmp _ _).trans (flag_discardKernel s _)),
    tmpWf_of_invalid (flag_discardTmp _ _), hmax⟩

/-- Every command keeps it. -/
theorem CommandEnds.dataInv {i : Instr} {s t : State} (he : CommandEnds s i t) (h : DataInv s) : DataInv t := by
  cases he with
  | error e u hu => exact (dataInv_raiseError_iff _ _).2 (hu.dataInv h)
  | kgen hc => exact h.kgenDone hc
  | hpass hg => exact h.hpassDone hg
  | vpass hg =>
    exact (dataInv_endCommand_iff _).2 (h.with_img (h.img_ok.writePrefix ((verticalPass_length ..).trans_le hg)))
  | blur hg => exact h.blurDone hg
  | sharpen hg =>
    have hlen := sharpenWords_length (num s.draws) s.draws (imgWord s) s.w.toNat s.h.toNat
    have himg := h.with_img (h.img_ok.writePrefix (hlen.trans_le hg))
    exact (dataInv_endCommand_iff _).2 (himg.discardTmp_with .nil s.w s.h)
  | _ => exact (dataInv_endCommand_iff _).2 h

/-! ### The invariant: STATUS -/

/-- `STATUS` and `ERRCODE` while a command runs: reserved bits zero, no error so far (R92). -/
def RunningStatus (s : State) : Prop := statusReads s.status = s.status ∧ s.flag .err = false ∧ s.errcode = 0

theorem RunningStatus.setFlag {s : State} (h : RunningStatus s) {f : Flag} (v : Bool) (hf : f ≠ .err) :
    RunningStatus (s.setFlag f v) := by
  obtain ⟨hr, he, hc⟩ := h
  exact ⟨statusReads_setStatusFlag f v hr, (flag_setFlag_ne s v hf.symm).trans he, hc⟩

/-- The launch state has it, whatever an earlier command left (R31). -/
theorem runningStatus_issueCommand (c : Word) {s : State} (h : statusReads s.status = s.status) :
    RunningStatus (issueCommand c s) :=
  ⟨statusReads_setStatusFlag _ _ (statusReads_setStatusFlag _ _ h), flag_issueCommand c s .err, rfl⟩

theorem RunningStatus.discards {s u : State} (h : RunningStatus s) (hu : Discards s u) : RunningStatus u := by
  have hk : RunningStatus (discardKernel s) := h.setFlag false (f := .kvalid) (by decide)
  obtain rfl | rfl | rfl | rfl := hu
  · exact h
  · exact hk
  · exact h.setFlag false (by decide)
  · exact hk.setFlag false (by decide)

theorem errorCode_toNat (e : CmdError) : 1 ≤ (errorCode e).toNat ∧ (errorCode e).toNat ≤ 5 := by cases e <;> decide

theorem RunningStatus.raiseError {s : State} (h : RunningStatus s) (e : CmdError) : StatusWf (raiseError e s) := by
  obtain ⟨hr, -, -⟩ := h
  obtain ⟨hpos, hle⟩ := errorCode_toNat e
  have hne : errorCode e ≠ 0 := fun h0 => by simp [h0] at hpos
  exact ⟨flag_raiseError e s .busy, statusReads_setStatusFlag _ _ (statusReads_setStatusFlag _ _ hr),
    iff_of_true (flag_raiseError e s .err) hne, hle⟩

theorem RunningStatus.endCommand {s : State} (h : RunningStatus s) : StatusWf (endCommand s) := by
  obtain ⟨hr, he, hc⟩ := h
  refine ⟨flag_endCommand s .busy, statusReads_setStatusFlag _ _ hr, ?_, ?_⟩
  · simp [flag_endCommand, he, hc]
  · simp [hc]

/-- Every command ends idle, with `ERR` and `ERRCODE` in step (R196, R229). -/
theorem CommandEnds.statusWf {i : Instr} {s t : State} (he : CommandEnds s i t) (h : RunningStatus s) : StatusWf t := by
  cases he with
  | error e u hu => exact (h.discards hu).raiseError e
  | kgen => exact (h.setFlag true (f := .kvalid) (by decide)).endCommand
  | hpass => exact (h.setFlag true (f := .tvalid) (by decide)).endCommand
  | blur => exact (h.discards (discards_both s)).endCommand
  | sharpen => exact (h.discards (discards_tmp s)).endCommand
  | _ => exact h.endCommand

/-! ### The step of an idle engine -/

/-- On an idle engine a memory write at the head of the host's list is performed (R73). -/
theorem step_writeMem {s : State} {rest : List HostOp} {sp : Space} {idx : Nat} {v : HostValue}
    (hs : s.host = .writeMem sp idx v :: rest) (hb : s.flag .busy = false) :
    step s = hostWriteMem sp idx v { s with host := rest, draws := s.draws + 1 } :=
  (step_transact hs).trans (transact_writeMem (s := { s with host := rest, draws := s.draws + 1 }) hb sp idx v)

/-- On an idle engine a write to `CMD` at the head of the host's list runs its command (R92). -/
theorem step_writeCmd {s : State} {rest : List HostOp} {c : Word} (hs : s.host = .writeReg 0 (.w32 c) :: rest)
    (hb : s.flag .busy = false) : step s = runCommand c { s with host := rest, draws := s.draws + 1 } :=
  (step_transact hs).trans (transact_writeReg (s := { s with host := rest, draws := s.draws + 1 }) hb 0 (.w32 c))

/-! ### The invariant: transactions -/

theorem Inv.runCommand {c : Word} {s t : State} (h : Inv s) (ht : runCommand c s = .next t) : Inv t := by
  obtain ⟨hdata, -, hr, -⟩ := (inv_iff s).1 h
  have hdata := (dataInv_issueCommand_iff c s).2 hdata
  have hrun := runningStatus_issueCommand c hr
  cases hd : decode c with
  | ok i =>
    have he := commandEnds_of_exec ((runCommand_ok hd s).symm.trans ht)
    exact (inv_iff t).2 ⟨he.dataInv hdata, he.statusWf hrun⟩
  | error e =>
    cases (runCommand_error hd s).symm.trans ht
    exact (inv_iff _).2 ⟨(dataInv_raiseError_iff _ _).2 hdata, hrun.raiseError _⟩

/-- A cleared validity flag leaves the rest of `STATUS` as it was. -/
theorem StatusWf.setFlag {s : State} (h : StatusWf s) {f : Flag} (v : Bool) (hb : f ≠ .busy) (he : f ≠ .err) :
    StatusWf (s.setFlag f v) := by
  obtain ⟨hbusy, hr, herr, hle⟩ := h
  refine ⟨(flag_setFlag_ne s v hb.symm).trans hbusy, statusReads_setStatusFlag f v hr, ?_, hle⟩
  rwa [flag_setFlag_ne s v he.symm]

/-- A write of a register other than `CMD` resizes the image and discards `TMP`, or it writes at most registers the
invariant does not speak of (R22, R32). -/
theorem writeRegister_cases {s t : State} {r : Reg} {v : HostValue} (h : writeRegister s r v = some t) :
    (t = discardTmp { s with w := t.w, h := t.h }) ∨
      t = { s with
        sigma := t.sigma, radius := t.radius, row := t.row, col := t.col, pix := t.pix, chR := t.chR, chG := t.chG,
        chB := t.chB, accR := t.accR, accG := t.accG, accB := t.accB } := by
  unfold writeRegister at h
  split at h <;> cases h
  case h_4 | h_5 => exact .inl rfl
  all_goals exact .inr rfl

theorem Inv.writeRegister {s t : State} {r : Reg} {v : HostValue} (h : Inv s) (ht : writeRegister s r v = some t) :
    Inv t := by
  obtain ⟨hdata, hst⟩ := (inv_iff s).1 h
  obtain ht | ht := writeRegister_cases ht
  · rw [ht]
    exact (inv_iff _).2 ⟨hdata.discardTmp_with hdata.tmp_ok t.w t.h, hst.setFlag false (by decide) (by decide)⟩
  · rw [ht]
    exact h

/-- A register write that has a meaning runs a command or writes a register. -/
theorem hostWriteReg_cases {n : Nat} {v : HostValue} {s t : State} (h : hostWriteReg n v s = .next t) :
    (∃ c, runCommand c s = .next t) ∨ ∃ r, writeRegister s r v = some t := by
  unfold hostWriteReg at h
  split at h
  · cases h
  · exact .inl ⟨_, h⟩
  · split at h
    · rename_i hw
      cases h
      exact .inr ⟨_, hw⟩
    · cases h

/-- A memory write that has a meaning is inside the capacity, and discards the scratch memory it writes (R32, R72). -/
theorem hostWriteMem_cases {sp : Space} {idx : Nat} {v : HostValue} {s t : State}
    (h : hostWriteMem sp idx v s = .next t) :
    idx < s.cap.entries sp ∧
      ((∃ x, sp = .img ∧ t = { s with img := Memory.write s.img idx x }) ∨
        (∃ x, sp = .tmp ∧ t = discardTmp { s with tmp := Memory.write s.tmp idx x }) ∨
        ∃ x, sp = .kbuf ∧ t = discardKernel { s with kbuf := Memory.write s.kbuf idx x }) := by
  unfold hostWriteMem at h
  split at h
  · cases h
  · rename_i hlt
    refine ⟨not_le.1 hlt, ?_⟩
    split at h <;> cases h
    · exact .inl ⟨_, rfl, rfl⟩
    · exact .inr (.inl ⟨_, rfl, rfl⟩)
    · exact .inr (.inr ⟨_, rfl, rfl⟩)

theorem Inv.hostWriteMem {sp : Space} {idx : Nat} {v : HostValue} {s t : State} (h : Inv s)
    (ht : hostWriteMem sp idx v s = .next t) : Inv t := by
  obtain ⟨hdata, hst⟩ := (inv_iff s).1 h
  obtain ⟨hlt, ⟨x, rfl, rfl⟩ | ⟨x, rfl, rfl⟩ | ⟨x, rfl, rfl⟩⟩ := hostWriteMem_cases ht
  · exact (inv_iff _).2 ⟨hdata.with_img (hdata.img_ok.write x hlt), hst⟩
  · exact (inv_iff _).2 ⟨hdata.discardTmp_with (hdata.tmp_ok.write x hlt) s.w s.h,
      hst.setFlag false (by decide) (by decide)⟩
  · exact (inv_iff _).2 ⟨hdata.discardKernel_with (hdata.kbuf_ok.write x hlt),
      hst.setFlag (f := .kvalid) false (by decide) (by decide)⟩

@[simp] theorem flag_hostReset (s : State) (f : Flag) : (hostReset s).flag f = false := by
  change statusFlag 0 f = false
  simp [statusFlag]

/-- Reset meets the invariant, whatever the capacities (R6, R40). -/
theorem inv_hostReset {s : State} (h : 1 ≤ s.cap.khalfMax) : Inv (hostReset s) := by
  refine ⟨⟨rfl, rfl, rfl, rfl, rfl, rfl⟩, ⟨flag_hostReset s _, (by decide : statusReads 0 = 0), ?_, Nat.zero_le 5⟩,
    kernelWf_of_invalid (flag_hostReset s _), tmpWf_of_invalid (flag_hostReset s _), h⟩
  exact iff_of_false (by simp) (not_not_intro rfl)

/-- What a read transaction answers is the state but for the host's side. -/
theorem hostReadReg_cases {n : Nat} {s t : State} (h : hostReadReg n s = .next t) : t = { s with answer := t.answer } := by
  unfold hostReadReg at h
  split at h <;> cases h
  rfl

theorem hostReadMem_cases {sp : Space} {idx : Nat} {s t : State} (h : hostReadMem sp idx s = .next t) :
    t = { s with answer := t.answer } := by
  unfold hostReadMem at h
  split at h <;> cases h
  rfl

theorem hostWait_cases {s t : State} (h : hostWait s = .next t) : t = { s with answer := t.answer, host := t.host } := by
  unfold hostWait at h
  cases h
  split <;> rfl

/-- Every host transaction keeps the invariant. -/
theorem Inv.transact {op : HostOp} {s t : State} (h : Inv s) (ht : transact op s = .next t) : Inv t := by
  have ⟨_, ⟨hbusy, _⟩, _, _, hmax⟩ := h
  cases op with
  | reset =>
    cases ht
    exact inv_hostReset hmax
  | wait =>
    rw [hostWait_cases ht]
    exact h
  | readReg n =>
    rw [transact_readReg hbusy] at ht
    rw [hostReadReg_cases ht]
    exact h
  | readMem sp idx =>
    rw [transact_readMem hbusy] at ht
    rw [hostReadMem_cases ht]
    exact h
  | writeReg n v =>
    rw [transact_writeReg hbusy] at ht
    obtain ⟨c, hc⟩ | ⟨r, hr⟩ := hostWriteReg_cases ht
    · exact h.runCommand hc
    · exact h.writeRegister hr
  | writeMem sp idx v =>
    rw [transact_writeMem hbusy] at ht
    exact h.hostWriteMem ht

/-- Settles O47: an idle machine stays as it is, and every transaction keeps the invariant. -/
theorem stepKeepsTheInvariant : Obligations.StepKeepsTheInvariant := by
  intro s t h ht
  cases hs : s.host with
  | nil =>
    cases (step_idle hs).symm.trans ht
    exact h
  | cons op rest =>
    have h' : Inv { s with host := rest, draws := s.draws + 1 } := h
    exact h'.transact ((step_transact hs).symm.trans ht)

/-- Settles O46: the state after reset is what a reset transaction leaves of it. -/
theorem resetMeetsTheInvariant : Obligations.ResetMeetsTheInvariant :=
  inv_hostReset (s := State.reset) (Nat.succ_le_succ (Nat.zero_le _))

/-! ### Reset, STATUS reads and scratch writes -/

/-- Settles O15, register by register. -/
theorem resetStateIsAsSpecified : Obligations.ResetStateIsAsSpecified := by
  refine ⟨fun r => ?_, flag_hostReset State.reset, fun _ => ⟨rfl, rfl, rfl⟩⟩
  cases r <;> exact ⟨rfl, rfl⟩

/-- Settles O6: register 1 is the one register a busy engine answers, and it reads as `statusReads`. -/
theorem statusReadReturnsTheFourFlags : Obligations.StatusReadReturnsTheFourFlags := by
  intro s rest h
  have hstep : step s =
      .next { s with host := rest, draws := s.draws + 1, answer := some (.w32 (statusReads s.status)) } := by
    rw [step_transact h, transact, bne_self_eq_false, Bool.and_false]
    rfl
  exact ⟨statusReads s.status, hstep, statusReads_lt _, statusReads_getLsbD_bit _ .busy, statusReads_getLsbD_bit _ .err,
    statusReads_getLsbD_bit _ .kvalid, statusReads_getLsbD_bit _ .tvalid⟩

/-- Settles O12: the write's step, then the laws of a memory write and of a flag write. -/
theorem scratchWritesClearTheirFlag : Obligations.ScratchWritesClearTheirFlag := by
  intro s rest n hbusy
  refine ⟨fun v hs hn => ?_, fun v hs hn => ?_⟩
  · refine ⟨_, (step_writeMem hs hbusy).trans (if_neg (not_le.2 hn)), flag_discardTmp _ _,
      keepsFlags_setFlag _ .tvalid false, fun r hr _ => ?_, Memory.read_write_same _ _ _,
      fun i hi => Memory.read_write_ne _ v hi, .refl _ _, .refl _ _, rfl⟩
    cases r with
    | status => exact absurd rfl hr
    | _ => rfl
  · refine ⟨_, (step_writeMem hs hbusy).trans (if_neg (not_le.2 hn)), flag_discardKernel _ _,
      keepsFlags_setFlag _ .kvalid false, fun r hr _ => ?_, Memory.read_write_same _ _ _,
      fun i hi => Memory.read_write_ne _ v hi, .refl _ _, .refl _ _, rfl⟩
    cases r with
    | status => exact absurd rfl hr
    | _ => rfl

/-! ### What a command does not depend on -/

/-- The start of a command overwrites what an earlier one left in `ERR` and `ERRCODE` (R31). -/
theorem issueCommand_ignores_error (c e : Word) (v : Bool) (s : State) :
    issueCommand c { s.setFlag .err v with errcode := e } = issueCommand c s := by
  have hst : setStatusFlag (setStatusFlag (setStatusFlag s.status .err v) .busy true) .err false =
      setStatusFlag (setStatusFlag s.status .busy true) .err false := by
    rw [setStatusFlag_comm s.status v true (by decide), setStatusFlag_setStatusFlag_same]
  exact congrArg (fun st => { s with cmd := c, errcode := 0, status := st }) hst

/-- A command sees nothing of the state but its launch state (R92). -/
theorem runCommand_congr {c : Word} {s u : State} (h : issueCommand c u = issueCommand c s) :
    runCommand c u = runCommand c s := by unfold runCommand; rw [h]

/-- Settles O42: both steps run the command from one launch state. -/
theorem commandsIgnoreEarlierErrors : Obligations.CommandsIgnoreEarlierErrors := by
  intro s rest c e v hs hbusy
  have hbusy' : (s.setFlag .err v).flag .busy = false := (flag_setFlag_ne s v (by decide)).trans hbusy
  rw [step_writeCmd hs hbusy, step_writeCmd (s := { s.setFlag .err v with errcode := e }) hs hbusy']
  exact runCommand_congr (issueCommand_ignores_error c e v { s with host := rest, draws := s.draws + 1 })

/-- The two states agree in all that BLUR reads: `SIGMA`, `W`, `H` and `IMG` (R165), the capacities, the draw number, and
`STATUS` and `ERRCODE` but for the validity flags. -/
structure AgreeForBlur (s u : State) : Prop where
  sigma : u.sigma = s.sigma
  w : u.w = s.w
  h : u.h = s.h
  img : u.img = s.img
  cap : u.cap = s.cap
  draws : u.draws = s.draws
  errcode : u.errcode = s.errcode
  flags : KeepsFlags [.kvalid, .tvalid] s u

/-- With both validity flags cleared `STATUS` is the same. -/
theorem AgreeForBlur.status_eq {s u : State} (h : AgreeForBlur s u) :
    (discardTmp (discardKernel u)).status = (discardTmp (discardKernel s)).status := by
  obtain ⟨hf, hr⟩ := h.flags
  refine status_ext (fun f => ?_) fun i hi => by simpa [hi] using hr i hi
  change (discardTmp (discardKernel u)).flag f = (discardTmp (discardKernel s)).flag f
  simp only [flag_discardTmp, flag_discardKernel]
  cases f with
  | kvalid => rfl
  | tvalid => rfl
  | busy => exact hf .busy (by decide)
  | err => exact hf .err (by decide)

theorem AgreeForBlur.geometryExceeds_eq {s u : State} (h : AgreeForBlur s u) : geometryExceeds u = geometryExceeds s := by
  unfold geometryExceeds pixelCount
  rw [h.w, h.h, h.cap]

theorem AgreeForBlur.blurImage_eq {s u : State} (h : AgreeForBlur s u) : blurImage u = blurImage s := by
  have himg : imgWord u = imgWord s := by
    funext n
    simp only [imgWord, h.img, h.draws]
  simp only [blurImage, himg, h.sigma, h.w, h.h, h.draws]

theorem AgreeForBlur.exceedsKernelCapacity_eq {s u : State} (h : AgreeForBlur s u) :
    exceedsKernelCapacity (num u.draws) u.sigma u.cap.khalfMax =
      exceedsKernelCapacity (num s.draws) s.sigma s.cap.khalfMax := by rw [h.draws, h.sigma, h.cap]

/-- The same in `IMG`, `ERRCODE` and `STATUS`. -/
def SameOutcome (t v : State) : Prop := v.img = t.img ∧ v.errcode = t.errcode ∧ v.status = t.status

theorem AgreeForBlur.sameOutcome_raiseError {s u : State} (h : AgreeForBlur s u) (e : CmdError) :
    SameOutcome (raiseError e (discardTmp (discardKernel s))) (raiseError e (discardTmp (discardKernel u))) :=
  ⟨h.img, rfl, by simp only [raiseError_status, h.status_eq]⟩

theorem AgreeForBlur.sameOutcome_blurDone {s u : State} (h : AgreeForBlur s u) :
    SameOutcome (blurDone s) (blurDone u) := by
  refine ⟨?_, h.errcode, congrArg (setStatusFlag · .busy false) h.status_eq⟩
  change Memory.writePrefix u.img (blurImage u) = Memory.writePrefix s.img (blurImage s)
  rw [h.img, h.blurImage_eq]

/-- BLUR takes the same branch from states that agree in what it reads, and leaves the same outcome. -/
theorem execBlur_congr {s u : State} (h : AgreeForBlur s u) :
    ∃ t v : State, execBlur s = .next t ∧ execBlur u = .next v ∧ SameOutcome t v := by
  have hu := execBlur_cases u
  rw [h.exceedsKernelCapacity_eq, h.geometryExceeds_eq, h.sigma] at hu
  obtain ⟨hv, hs⟩ | ⟨hv, hg, hs⟩ | ⟨hv, hg, hc, hs⟩ | ⟨hv, hg, hc, hs⟩ := execBlur_cases s
  · exact ⟨_, _, hs, by simpa [hv] using hu, h.sameOutcome_raiseError _⟩
  · exact ⟨_, _, hs, by simpa [hv, hg] using hu, h.sameOutcome_raiseError _⟩
  · exact ⟨_, _, hs, by simpa [hv, hg, hc] using hu, h.sameOutcome_raiseError _⟩
  · exact ⟨_, _, hs, by simpa [hv, hg, hc] using hu, h.sameOutcome_blurDone⟩

/-- Settles O43: the two states differ in nothing that BLUR reads. -/
theorem blurIgnoresThePrimitivesOperands : Obligations.BlurIgnoresThePrimitivesOperands := by
  intro s radius hl kl row col pix chR chG chB accR accG accB tmp kbuf k v
  refine execBlur_congr ⟨rfl, rfl, rfl, rfl, rfl, rfl, rfl, ?_, fun b hb => ?_⟩
  · intro f hf
    simp only [List.mem_cons, List.not_mem_nil, or_false, not_or] at hf
    obtain ⟨hk, ht⟩ := hf
    exact (flag_setFlag_ne _ v ht).trans (flag_setFlag_ne s k hk)
  · exact (getLsbD_setStatusFlag_reserved _ _ v hb).trans (getLsbD_setStatusFlag_reserved _ _ k hb)

end Sys2Proof.Machine

/-!
PROOFS. The family of `20_memory.md`: the host's transactions on an idle engine, what each answers and leaves unchanged.
-/
namespace Sys2Proof.Machine

/-! ### The step of a transaction -/

section
variable {s : State} {rest : List HostOp} {n idx : Nat} {sp : Space} {v : HostValue}

/-- On an idle engine a register write at the head of the host's list is performed (R70). -/
theorem step_writeReg (hs : s.host = .writeReg n v :: rest) (hb : s.flag .busy = false) :
    step s = hostWriteReg n v { s with host := rest, draws := s.draws + 1 } :=
  (step_transact hs).trans (transact_writeReg (s := { s with host := rest, draws := s.draws + 1 }) hb n v)

/-- On an idle engine a register read at the head of the host's list is performed (R70). -/
theorem step_readReg (hs : s.host = .readReg n :: rest) (hb : s.flag .busy = false) :
    step s = hostReadReg n { s with host := rest, draws := s.draws + 1 } :=
  (step_transact hs).trans (transact_readReg (s := { s with host := rest, draws := s.draws + 1 }) hb n)

/-- On an idle engine a memory read at the head of the host's list is performed (R70). -/
theorem step_readMem (hs : s.host = .readMem sp idx :: rest) (hb : s.flag .busy = false) :
    step s = hostReadMem sp idx { s with host := rest, draws := s.draws + 1 } :=
  (step_transact hs).trans (transact_readMem (s := { s with host := rest, draws := s.draws + 1 }) hb sp idx)

/-- A wait answers `STATUS`, on an idle or a busy engine, and stays the next transaction while `BUSY` is 1 (R70). -/
theorem step_wait (hs : s.host = .wait :: rest) :
    step s = .next { s with
      host := if s.flag .busy then .wait :: rest else rest
      draws := s.draws + 1
      answer := some (.w32 (statusReads s.status)) } := by
  have hstep : step s = hostWait { s with host := rest, draws := s.draws + 1 } := step_transact hs
  have hflag : State.flag { s with host := rest, draws := s.draws + 1 } .busy = s.flag .busy := rfl
  rw [hstep, hostWait, hflag]
  cases s.flag .busy <;> rfl

/-- A read of an existing register answers it, and changes the host's side only (R70). -/
theorem step_readReg_answer {r : Reg} (hs : s.host = .readReg (regNumber r) :: rest) (hb : s.flag .busy = false)
    (hv : readRegister { s with host := rest, draws := s.draws + 1 } r = v) :
    step s = .next { s with host := rest, draws := s.draws + 1, answer := some v } := by
  rw [step_readReg hs hb, hostReadReg_regNumber, hv]

/-- A read of an entry inside the capacity answers it, and changes the host's side only (R70). -/
theorem step_readMem_answer (hs : s.host = .readMem sp idx :: rest) (hb : s.flag .busy = false)
    (hlt : idx < s.cap.entries sp) (hv : readMemory { s with host := rest, draws := s.draws + 1 } idx sp = v) :
    step s = .next { s with host := rest, draws := s.draws + 1, answer := some v } := by
  rw [step_readMem hs hb, hostReadMem, if_neg (not_le.2 hlt), hv]

end

/-! ### Transactions without a meaning -/

theorem hostReadReg_of_ge {n : Nat} (h : 18 ≤ n) (s : State) : hostReadReg n s = .refused .noSuchRegister := by
  rw [hostReadReg, (regOfNumber_eq_none n).2 h]

theorem hostWriteReg_of_ge {n : Nat} (h : 18 ≤ n) (v : HostValue) (s : State) :
    hostWriteReg n v s = .refused .noSuchRegister := by
  simp only [hostWriteReg, (regOfNumber_eq_none n).2 h]

/-- Settles O8: the number names no register, or the index fails the capacity check that comes before all else. -/
theorem nonexistentRegisterOrEntryIsRefused : Obligations.NonexistentRegisterOrEntryIsRefused := by
  intro s rest hb
  refine ⟨fun n hn => ⟨fun hs => ?_, fun v hs => ?_⟩, fun sp idx hge => ⟨fun hs => ?_, fun v hs => ?_⟩⟩
  · exact (step_readReg hs hb).trans (hostReadReg_of_ge hn _)
  · exact (step_writeReg hs hb).trans (hostWriteReg_of_ge hn v _)
  · exact (step_readMem hs hb).trans (if_pos hge)
  · exact (step_writeMem hs hb).trans (if_pos hge)

/-! ### What a read answers -/

/-- A register reads as its contents, but for `STATUS` and a discarded `HALFLEN` or `KLEN` (R30, R32). -/
theorem readRegister_eq_contents {s : State} {r : Reg} (hst : r ≠ .status)
    (hk : r = .halflen ∨ r = .klen → s.kernelDiscarded = false) : readRegister s r = contents s r := by
  cases r with
  | status => exact absurd rfl hst
  | halflen => simp [readRegister, contents, hk]
  | klen => simp [readRegister, contents, hk]
  | _ => rfl

/-- A register read has the register's width (R70). -/
theorem readRegister_is64 (s : State) (r : Reg) : (readRegister s r).is64 = regIs64 (regNumber r) := by cases r <;> rfl

/-- A memory read has the entry's width (R70). -/
theorem readMemory_is64 (s : State) (idx : Nat) (sp : Space) : (readMemory s idx sp).is64 = spaceIs64 sp := by
  cases sp <;> rfl

theorem readMemory_img {s : State} {i : Nat} {v : Word} (h : Memory.read s.img i = some v) :
    readMemory s i .img = .w32 v := by simp [readMemory, imgWord, h]

theorem readMemory_tmp {s : State} {i : Nat} {v : Word} (ht : s.flag .tvalid = true)
    (h : Memory.read s.tmp i = some v) : readMemory s i .tmp = .w32 v := by simp [readMemory, ht, h]

theorem readMemory_kbuf {s : State} {i : Nat} {v : F64} (hk : s.flag .kvalid = true)
    (h : Memory.read s.kbuf i = some v) : readMemory s i .kbuf = .w64 v := by simp [readMemory, hk, h]

/-- Settles O60: a read inside the register file or a memory has a meaning, and its answer the width asked for. -/
theorem everyReadAnswersAndChangesNothing : Obligations.EveryReadAnswersAndChangesNothing := by
  intro s rest hb
  exact ⟨fun r hs => ⟨_, readRegister_is64 _ r, step_readReg_answer hs hb rfl⟩,
    fun sp n hs hlt => ⟨_, readMemory_is64 _ n sp, step_readMem_answer hs hb hlt rfl⟩⟩

/-- Settles O13: the step of a read, then what the read answers for a defined entry or a register. -/
theorem readsOfDefinedEntriesReturnTheContents : Obligations.ReadsOfDefinedEntriesReturnTheContents := by
  intro s rest n answered hb ha
  simp only [ha]
  refine ⟨fun v hs hlt h => ?_, fun v hs hlt ht h => ?_, fun v hs hlt hk h => ?_, fun r hs hk => ?_⟩
  · exact step_readMem_answer hs hb hlt (readMemory_img h)
  · exact step_readMem_answer hs hb hlt (readMemory_tmp ht h)
  · exact step_readMem_answer hs hb hlt (readMemory_kbuf hk h)
  · refine step_readReg_answer hs hb ?_
    split
    · subst r
      rfl
    · exact readRegister_eq_contents ‹_› hk

/-! ### A wait -/

/-- The host's side and the draw number are no part of the data state. -/
theorem keepsData_hostSide (s : State) (host : List HostOp) (draws : Nat) (answer : Option HostValue) :
    KeepsData s { s with host := host, draws := draws, answer := answer } :=
  ⟨fun _ _ _ => rfl, .refl _ _, .refl _ _, .refl _ _⟩

/-- Settles O7: a wait's step changes the host's side only. -/
theorem waitRepeatsWhileBusy : Obligations.WaitRepeatsWhileBusy := by
  intro s rest hs
  exact ⟨_, step_wait hs, rfl, rfl, keepsData_hostSide _ _ _ _, rfl, rfl, rfl, rfl, rfl⟩

/-! ### What a register write changes -/

section
variable {s t : State} {r : Reg} {v : HostValue}

/-- A value of the register's width has a write (R70). -/
theorem exists_writeRegister (s : State) (hv : v.is64 = regIs64 (regNumber r)) : ∃ t, writeRegister s r v = some t :=
  Option.isSome_iff_exists.1 ((writeRegister_isSome s r v).trans (beq_iff_eq.2 hv))

/-- A host-writable register holds the written value after a write; no other register but `STATUS` changes (R22). -/
theorem contents_of_writeRegister (h : writeRegister s r v = some t) {q : Reg} (hq : q ≠ .status) :
    contents t q =
      if q = r ∧ r ∉ [Reg.cmd, .status, .errcode, .halflen, .klen] then v else contents s q := by
  unfold writeRegister at h
  split at h <;> cases h <;> cases q with
  | status => exact absurd rfl hq
  | _ => rfl

theorem keepsRegisters_of_writeRegister (h : writeRegister s r v = some t) : KeepsRegisters [r] s t := by
  intro q hst hq
  rw [contents_of_writeRegister h hst, if_neg fun hr => hq (by simp [hr.1])]

/-- Of `STATUS` a write of `W` or `H` clears `TVALID`, and no other write changes a bit (R32). -/
theorem status_of_writeRegister (h : writeRegister s r v = some t) :
    t.status = if r = .w ∨ r = .h then setStatusFlag s.status .tvalid false else s.status := by
  unfold writeRegister at h
  split at h <;> cases h <;> rfl

theorem keepsFlags_of_writeRegister (h : writeRegister s r v = some t) : KeepsFlags [.tvalid] s t := by
  have hst := status_of_writeRegister h
  unfold KeepsFlags State.flag
  rw [hst]
  split
  · exact keepsFlags_setFlag s .tvalid false
  · exact ⟨fun _ _ => rfl, fun _ _ => rfl⟩

/-- A write of a read-only register is ignored (R22). -/
theorem eq_of_writeRegister_readOnly (h : writeRegister s r v = some t)
    (hr : r ∈ [Reg.status, .errcode, .halflen, .klen]) : t = s := by
  simp only [List.mem_cons, List.not_mem_nil, or_false] at hr
  obtain rfl | rfl | rfl | rfl := hr <;> cases v <;> cases h <;> rfl

/-- No register write reaches a memory, the mark of a discarded kernel, or the host's list (R22). -/
theorem frame_of_writeRegister (h : writeRegister s r v = some t) :
    KeepsImg s t ∧ KeepsTmp s t ∧ KeepsKbuf s t ∧ t.kernelDiscarded = s.kernelDiscarded ∧ t.host = s.host := by
  obtain h | h := writeRegister_cases h <;> rw [h] <;> exact ⟨.refl _ _, .refl _ _, .refl _ _, rfl, rfl⟩

/-- On an idle engine a write of a register other than `CMD`, of its width, is done in one step (R70). -/
theorem step_writeReg_of_width {rest : List HostOp} (hs : s.host = .writeReg (regNumber r) v :: rest)
    (hb : s.flag .busy = false) (hr : r ≠ .cmd) (hv : v.is64 = regIs64 (regNumber r)) :
    ∃ t, step s = .next t ∧ writeRegister { s with host := rest, draws := s.draws + 1 } r v = some t := by
  obtain ⟨t, ht⟩ := exists_writeRegister { s with host := rest, draws := s.draws + 1 } hv
  exact ⟨t, (step_writeReg hs hb).trans (hostWriteReg_of_write hr ht), ht⟩

end

/-- Settles O9: the write's step leaves the value in the register, and the read's step answers the register. -/
theorem registerReadReturnsTheLatestWrite : Obligations.RegisterReadReturnsTheLatestWrite := by
  intro s rest r v hs hb hr hv
  have hcmd : r ≠ .cmd := by rintro rfl; simp at hr
  have hst : r ≠ .status := by rintro rfl; simp at hr
  have hk : ¬ (r = .halflen ∨ r = .klen) := by rintro (rfl | rfl) <;> simp at hr
  obtain ⟨t, hstep, hw⟩ := step_writeReg_of_width hs hb hcmd hv
  obtain ⟨himg, htmp, hkbuf, hdisc, hhost⟩ := frame_of_writeRegister hw
  have hregs := keepsRegisters_of_writeRegister hw
  have hflags := keepsFlags_of_writeRegister hw
  have hread : readRegister { t with host := rest, draws := t.draws + 1 } r = v :=
    calc readRegister { t with host := rest, draws := t.draws + 1 } r
      _ = contents t r := readRegister_eq_contents hst fun h => absurd h hk
      _ = v := (contents_of_writeRegister hw hst).trans (if_pos ⟨rfl, hr⟩)
  exact ⟨t, _, hstep, step_readReg_answer hhost ((hflags.1 .busy (by decide)).trans hb) hread, rfl, hregs,
    hflags, himg, htmp, hkbuf, hdisc⟩

theorem regNumber_injective : Function.Injective regNumber :=
  fun a b h => Option.some.inj (by rw [← regOfNumber_regNumber a, h, regOfNumber_regNumber])

/-- Every number below 18 is a register's (R22). -/
theorem exists_regNumber {n : Nat} (h : n < 18) : ∃ r, n = regNumber r := by
  obtain ⟨r, hr⟩ := Option.ne_none_iff_exists'.1 fun hn => absurd ((regOfNumber_eq_none n).1 hn) (not_le.2 h)
  exact ⟨r, regOfNumber_eq_some hr⟩

/-- Settles O10: the number is a register's, and a write of it changes `STATUS` for `W` and `H` only. -/
theorem registerWriteSideEffects : Obligations.RegisterWriteSideEffects := by
  intro s rest n v hs hb h0 hlt hv
  obtain ⟨r, rfl⟩ := exists_regNumber hlt
  obtain ⟨t, hstep, hw⟩ := step_writeReg_of_width hs hb (by rintro rfl; exact h0 rfl) hv
  obtain ⟨-, -, -, -, hhost⟩ := frame_of_writeRegister hw
  have hflags := keepsFlags_of_writeRegister hw
  have hstatus := status_of_writeRegister hw
  refine ⟨t, hstep, hhost, fun hn => ⟨?_, hflags⟩, fun h3 h4 => ?_, fun hn => ?_⟩
  · have hr : r = .w ∨ r = .h := hn.imp (regNumber_injective (a₂ := .w) ·) (regNumber_injective (a₂ := .h) ·)
    rw [State.flag, hstatus, if_pos hr, statusFlag_setStatusFlag_same]
  · have hr : ¬ (r = .w ∨ r = .h) := by rintro (rfl | rfl); exacts [h3 rfl, h4 rfl]
    rw [hstatus, if_neg hr]
  · refine eq_of_writeRegister_readOnly hw ?_
    revert hn
    cases r <;> decide

/-- Settles O11: the write's step, the read's step from there, and the laws of a memory write. -/
theorem imageReadReturnsTheLatestWrite : Obligations.ImageReadReturnsTheLatestWrite := by
  intro s rest n v hs hb hn
  exact ⟨_, _, (step_writeMem hs hb).trans (if_neg (not_le.2 hn)),
    step_readMem_answer rfl hb hn (readMemory_img (Memory.read_write_same s.img n v)), rfl,
    fun i hi => Memory.read_write_ne s.img v hi, .refl _ _, .refl _ _, fun _ _ _ => rfl, rfl⟩

end Sys2Proof.Machine

/-!
PROOFS. The family of `30_encoding.md`: command words, and the step of a write to `CMD`.
-/
namespace Sys2Proof.Machine

/-! ### Command words -/

/-- A command word is its three fields put together (R90). -/
theorem cmdw_fields (c : Word) : cmdw (rsvField c) (axisField c) (opField c) = c := by
  have hhigh : rsvField c ++ axisField c = c.extractLsb' 8 24 :=
    BitVec.extractLsb'_append_extractLsb'_eq_extractLsb' rfl
  have hall : c.extractLsb' 8 24 ++ opField c = c.extractLsb' 0 32 :=
    BitVec.extractLsb'_append_extractLsb'_eq_extractLsb' rfl
  rw [cmdw, hhigh, hall, BitVec.extractLsb'_eq_self]

/-- The encoder gives the words R93's table prints. -/
theorem encode_eq_commandWord (i : Instr) : encode i = commandWord i := by cases i <;> rfl

/-- Every command's word decodes to the command (R93). -/
theorem decode_encode (i : Instr) : decode (encode i) = .ok i :=
  match i with
  | .unpack => Laws.RoundTrip.unpack.1
  | .pack => Laws.RoundTrip.pack.1
  | .kgen => Laws.RoundTrip.kgen.1
  | .fir1dH => Laws.RoundTrip.fir1dH.1
  | .fir1dV => Laws.RoundTrip.fir1dV.1
  | .hpass => Laws.RoundTrip.hpass.1
  | .vpass => Laws.RoundTrip.vpass.1
  | .blur => Laws.RoundTrip.blur.1
  | .sharpen => Laws.RoundTrip.sharpen.1

/-- All 32 bits are compared: a word that decodes to a command has the three fields of the command's word (R94). -/
theorem eq_encode_of_decode {c : Word} {i : Instr} (h : decode c = .ok i) : c = encode i := by
  rw [← cmdw_fields c]
  unfold decode at h
  split_ifs at h with hrsv haxis
  case pos hop => -- `FIR1D.V`, the one word with `AXIS = 1`
    cases h
    rw [not_not.1 hrsv, haxis, hop]
    rfl
  all_goals
    cases h
    rw [not_not.1 hrsv, (BitVec.eq_zero_or_eq_one _).resolve_right haxis]
    exact congrArg (cmdw 0 0) ‹opField c = _›

/-- Settles O1: decoding inverts the encoder, and a decoded word is put together from the command's fields. -/
theorem decodingComparesAllBitsOfTheWord : Obligations.DecodingComparesAllBitsOfTheWord := by
  intro c i
  rw [← encode_eq_commandWord]
  exact ⟨eq_encode_of_decode, fun h => h ▸ decode_encode i⟩

/-- A word that is none of the nine is reserved (R96). -/
theorem decode_eq_error {c : Word} (h : ∀ i : Instr, c ≠ commandWord i) : ∃ e, decode c = .error e := by
  cases hd : decode c with
  | ok i => exact absurd ((decodingComparesAllBitsOfTheWord c i).1 hd) (h i)
  | error e => exact ⟨e, rfl⟩

/-- Settles O2: the round trip of every command, and six words by evaluation. -/
theorem decodeAndEncodeAgreeOnTheTable : Obligations.DecodeAndEncodeAgreeOnTheTable :=
  ⟨fun i _ => ⟨decode_encode i, encode_eq_commandWord i⟩, by decide⟩

/-! ### The step of a write to `CMD` -/

theorem KeepsFlags.trans {changed : List Flag} {s t u : State} (hst : KeepsFlags changed s t)
    (htu : KeepsFlags changed t u) : KeepsFlags changed s u :=
  ⟨fun f hf => (htu.1 f hf).trans (hst.1 f hf), fun b hb => (htu.2 b hb).trans (hst.2 b hb)⟩

/-- The start of a command keeps every bit of `STATUS` but `BUSY` and `ERR` (R92). -/
theorem keepsFlags_issueCommand (c : Word) (s : State) : KeepsFlags [.busy, .err] s (issueCommand c s) := by
  refine ⟨fun f hf => ?_, fun b hb => by simp [hb]⟩
  obtain ⟨hbusy, herr⟩ : f ≠ .busy ∧ f ≠ .err := by simpa using hf
  rw [flag_issueCommand, if_neg herr, if_neg hbusy]

/-- An error keeps every bit of `STATUS` but `BUSY` and `ERR` (R196). -/
theorem keepsFlags_raiseError (e : CmdError) (s : State) : KeepsFlags [.busy, .err] s (raiseError e s) := by
  refine ⟨fun f hf => ?_, fun b hb => by simp [hb]⟩
  obtain ⟨hbusy, herr⟩ : f ≠ .busy ∧ f ≠ .err := by simpa using hf
  rw [flag_raiseError, if_neg hbusy, if_neg herr]

theorem endsWithError_raiseError (e : CmdError) (s : State) : EndsWithError e (raiseError e s) :=
  ⟨rfl, flag_raiseError e s .err, flag_raiseError e s .busy⟩

/-- `CMD`, `STATUS`, `ERRCODE` and the host's side are no part of the data state (R196). -/
theorem keepsData_cmd_status_errcode (s : State) (cmd status errcode : Word) (host : List HostOp) (draws : Nat) :
    KeepsData s { s with cmd := cmd, status := status, errcode := errcode, host := host, draws := draws } := by
  refine ⟨fun r hst hr => ?_, .refl _ _, .refl _ _, .refl _ _⟩
  cases r with
  | status => exact absurd rfl hst
  | cmd | errcode => simp at hr
  | _ => rfl

/-- Every command ends with `BUSY = 0` (R92, R229). -/
theorem CommandEnds.idle {i : Instr} {s t : State} (h : CommandEnds s i t) : t.flag .busy = false := by
  cases h with
  | error e u _ => exact flag_raiseError e u .busy
  | _ => exact flag_endCommand _ .busy

/-- Settles O4: the word does not decode, so the command it issued ends with the error. -/
theorem reservedWordEndsWithIllegalCommand : Obligations.ReservedWordEndsWithIllegalCommand := by
  intro s rest c hs hb hc
  obtain ⟨e, he⟩ := decode_eq_error hc
  refine ⟨_, (step_writeCmd hs hb).trans (runCommand_error he _), rfl, endsWithError_raiseError _ _,
    keepsData_cmd_status_errcode s _ _ _ _ _, ?_, rfl, rfl, rfl⟩
  exact (keepsFlags_issueCommand c { s with host := rest, draws := s.draws + 1 }).trans (keepsFlags_raiseError _ _)

/-- Settles O3: the launch state is what `issueCommand` makes, and every command ends idle. -/
theorem stepRunsTheDecodedCommand : Obligations.StepRunsTheDecodedCommand := by
  intro s rest c i hs hd
  refine ⟨fun hb => ?_, fun hb => ?_⟩
  · obtain ⟨t, ht, hends⟩ := exec_ends i (issueCommand c { s with host := rest, draws := s.draws + 1 })
    exact ⟨_, t, (step_writeCmd hs hb).trans (runCommand_ok hd _), ht, hends.idle, rfl, flag_issueCommand _ _ .busy,
      flag_issueCommand _ _ .err, keepsFlags_issueCommand c { s with host := rest, draws := s.draws + 1 }⟩
  · rw [step_transact hs]
    exact transact_busy hb nofun nofun nofun

end Sys2Proof.Machine

/-!
PROOFS. The family of `40_numerics.md`: the binary64 operations are correctly rounded, the conversions exact, the
exponential bracketed.
-/
namespace Sys2Proof.F64

/-! ### The binary64 values as an increasing sequence -/

/-- The magnitude that bits 62:0 stand for, in multiples of `2^-1074`, continued above the finite values as if the
exponent had no end: an infinity counts as `2^1024` (R110). -/
def bitsMag (b : Nat) : Nat := if b < 2 ^ 52 then b else (2 ^ 52 + b % 2 ^ 52) * 2 ^ (b / 2 ^ 52 - 1)

theorem mag_ofSignBits (neg : Bool) {b : Nat} (h : b < 2 ^ 63) : (ofSignBits neg b).mag = bitsMag b := by
  unfold mag bitsMag
  rw [expField_ofSignBits neg h, fracField_ofSignBits neg h]
  by_cases hb : b < 2 ^ 52
  · rw [if_pos (Nat.div_eq_of_lt hb), if_pos hb, Nat.mod_eq_of_lt hb]
  · rw [if_neg (Nat.div_pos (not_lt.1 hb) (by decide)).ne', if_neg hb]

theorem signedMag_ofSignBits (neg : Bool) {b : Nat} (h : b < 2 ^ 63) :
    (ofSignBits neg b).signedMag = if neg then -(bitsMag b : Int) else (bitsMag b : Int) := by
  rw [signedMag, sign_ofSignBits neg h, mag_ofSignBits neg h]

/-- A pattern is its sign and the 63 bits below. -/
theorem ofSignBits_sign_mod (a : F64) : ofSignBits a.sign (a.toNat % 2 ^ 63) = a := by
  have hlt : a.toNat % 2 ^ 63 < 2 ^ 63 := Nat.mod_lt _ (by decide)
  have hf := toNat_eq_fields a
  have he := expField_lt a
  have hfr := fracField_lt a
  apply BitVec.eq_of_toNat_eq
  rw [toNat_ofSignBits _ hlt]
  cases hs : a.sign
  · rw [hs, if_neg Bool.false_ne_true] at hf
    rw [if_neg Bool.false_ne_true]
    omega
  · rw [hs, if_pos rfl] at hf
    rw [if_pos rfl]
    omega

theorem mag_eq_bitsMag (a : F64) : a.mag = bitsMag (a.toNat % 2 ^ 63) := by
  rw [← mag_ofSignBits a.sign (Nat.mod_lt _ (by decide)), ofSignBits_sign_mod]

/-- A finite value's bits 62:0 are below those of an infinity. -/
theorem isFinite_iff (a : F64) : a.isFinite = true ↔ a.toNat % 2 ^ 63 < infBits := by
  have he := expField_lt a
  have hfr := fracField_lt a
  have hlt : a.toNat % 2 ^ 63 < 2 ^ 63 := Nat.mod_lt _ (by decide)
  have h := expField_ofSignBits a.sign hlt
  rw [ofSignBits_sign_mod] at h
  unfold isFinite infBits
  rw [bne_iff_ne, h]
  omega

/-- The number `m * 2^k` has the bits `k * 2^52 + m`, for a 53-bit `m` with its top bit set or `k = 0`; also at the end
of that range, where the next binade begins. -/
theorem bitsMag_grid {k m : Nat} (h : k = 0 ∨ 2 ^ 52 ≤ m) (hm : m ≤ 2 ^ 53) :
    bitsMag (k * 2 ^ 52 + m) = m * 2 ^ k := by
  unfold bitsMag
  rcases lt_or_ge m (2 ^ 52) with hlo | hlo
  · obtain rfl := h.resolve_right (by omega)
    rw [if_pos (by omega)]
    simp
  · rw [if_neg (by omega)]
    rcases eq_or_lt_of_le hm with rfl | hhi
    · have hmod : (k * 2 ^ 52 + 2 ^ 53) % 2 ^ 52 = 0 := by omega
      have hdiv : (k * 2 ^ 52 + 2 ^ 53) / 2 ^ 52 - 1 = k + 1 := by omega
      rw [hmod, hdiv, pow_succ]
      ring
    · have hmod : (k * 2 ^ 52 + m) % 2 ^ 52 = m - 2 ^ 52 := by omega
      have hdiv : (k * 2 ^ 52 + m) / 2 ^ 52 - 1 = k := by omega
      rw [hmod, hdiv, Nat.add_sub_cancel' hlo]

/-- Every pattern is on such a grid. -/
theorem exists_grid (b : Nat) : ∃ k m : Nat, (k = 0 ∨ 2 ^ 52 ≤ m) ∧ m < 2 ^ 53 ∧ b = k * 2 ^ 52 + m := by
  rcases lt_or_ge b (2 ^ 53) with h | h
  · exact ⟨0, b, .inl rfl, h, by omega⟩
  · exact ⟨b / 2 ^ 52 - 1, 2 ^ 52 + b % 2 ^ 52, .inr (by omega), by omega, by omega⟩

theorem bitsMag_lt_succ (b : Nat) : bitsMag b < bitsMag (b + 1) := by
  obtain ⟨k, m, h, hm, rfl⟩ := exists_grid b
  rw [add_assoc, bitsMag_grid h hm.le, bitsMag_grid (h.imp_right (by omega)) hm]
  exact Nat.mul_lt_mul_of_pos_right (Nat.lt_succ_self m) (Nat.two_pow_pos k)

theorem bitsMag_strictMono : StrictMono bitsMag := strictMono_nat_of_lt_succ bitsMag_lt_succ

@[simp] theorem bitsMag_zero : bitsMag 0 = 0 := rfl

/-- Every `m * 2^k` with `m` of at most 53 bits is a binary64 value, but for its size. -/
theorem exists_bitsMag (k : Nat) : ∀ {m : Nat}, m ≤ 2 ^ 53 → ∃ b, bitsMag b = m * 2 ^ k := by
  induction k with
  | zero => exact fun {m} hm => ⟨0 * 2 ^ 52 + m, bitsMag_grid (.inl rfl) hm⟩
  | succ k ih =>
    intro m hm
    rcases lt_or_ge m (2 ^ 52) with h | h
    · obtain ⟨b, hb⟩ := ih (m := 2 * m) (by omega)
      exact ⟨b, by rw [hb, pow_succ]; ring⟩
    · exact ⟨_, bitsMag_grid (.inr h) hm⟩

/-! ### Rounding to nearest, ties to even -/

/-- Twice the midpoint between a value and the next one. -/
def midSum (b : Nat) : Nat := bitsMag b + bitsMag (b + 1)

theorem midSum_strictMono : StrictMono midSum :=
  strictMono_nat_of_lt_succ fun b => Nat.add_lt_add (bitsMag_lt_succ b) (bitsMag_lt_succ (b + 1))

/-- The bits `b` are those of `x` (in multiples of `2^-1074`) rounded to nearest, ties to the even pattern, when there
is no largest value: every midpoint below `b` is below `x` and every other one above it, or it is `x` and `b` is
even. -/
def RoundsToBits (x : ℝ) (b : Nat) : Prop :=
  ∀ c : Nat, (c < b → (midSum c : ℝ) < 2 * x ∨ (midSum c : ℝ) = 2 * x ∧ Even b) ∧
    (b ≤ c → 2 * x < midSum c ∨ 2 * x = midSum c ∧ Even b)

/-- Of the two values around `x`, the midpoint between them decides. -/
theorem roundsToBits_of_floor {x : ℝ} {n b : Nat} (hlo : (bitsMag n : ℝ) ≤ x) (hhi : x < bitsMag (n + 1))
    (hb : b = n ∧ (2 * x < midSum n ∨ 2 * x = midSum n ∧ Even b) ∨
      b = n + 1 ∧ (midSum n < 2 * x ∨ midSum n = 2 * x ∧ Even b)) : RoundsToBits x b := by
  have below : ∀ c < n, (midSum c : ℝ) < 2 * x := fun c hc => by
    have h1 : (bitsMag c : ℝ) < bitsMag n := by exact_mod_cast bitsMag_strictMono hc
    have h2 : (bitsMag (c + 1) : ℝ) ≤ bitsMag n := by exact_mod_cast bitsMag_strictMono.monotone hc
    rw [midSum, Nat.cast_add]
    linarith
  have above : ∀ c, n < c → 2 * x < midSum c := fun c hc => by
    have h1 : (bitsMag (n + 1) : ℝ) ≤ bitsMag c := by exact_mod_cast bitsMag_strictMono.monotone hc
    have h2 : (bitsMag c : ℝ) < bitsMag (c + 1) := by exact_mod_cast bitsMag_lt_succ c
    rw [midSum, Nat.cast_add]
    linarith
  intro c
  obtain ⟨rfl, hmid⟩ | ⟨rfl, hmid⟩ := hb
  · refine ⟨fun hc => .inl (below c hc), fun hc => ?_⟩
    rcases eq_or_lt_of_le hc with rfl | hc
    · exact hmid
    · exact .inl (above c hc)
  · refine ⟨fun hc => ?_, fun hc => .inl (above c hc)⟩
    rcases eq_or_lt_of_le (Nat.lt_succ_iff.1 hc) with rfl | hc
    · exact hmid
    · exact .inl (below c hc)

/-- An exact value rounds to itself. -/
theorem roundsToBits_bitsMag (b : Nat) : RoundsToBits (bitsMag b) b := by
  have h : (bitsMag b : ℝ) < bitsMag (b + 1) := by exact_mod_cast bitsMag_lt_succ b
  refine roundsToBits_of_floor le_rfl h (.inl ⟨rfl, .inl ?_⟩)
  rw [midSum, Nat.cast_add]
  linarith

/-- Rounding is monotone, and so it has one result. -/
theorem RoundsToBits.le {x y : ℝ} {b c : Nat} (hx : RoundsToBits x b) (hy : RoundsToBits y c) (h : x ≤ y) : b ≤ c := by
  by_contra hlt
  have hcb : c < b := not_le.1 hlt
  have hlo := (hx c).1 hcb
  have hhi := (hy c).2 le_rfl
  obtain ⟨-, hb⟩ : (midSum c : ℝ) = 2 * x ∧ Even b := hlo.resolve_left fun h' => by
    obtain hhi | ⟨hhi, -⟩ := hhi <;> linarith
  obtain ⟨-, hc⟩ : 2 * y = midSum c ∧ Even c := hhi.resolve_left fun h' => by
    obtain hlo | ⟨hlo, -⟩ := hlo <;> linarith
  have hstep : c + 1 < b := lt_of_le_of_ne hcb fun he => by
    subst he
    exact absurd hc (by simpa [Nat.even_add_one] using hb)
  have hmid : (midSum c : ℝ) < midSum (c + 1) := by exact_mod_cast midSum_strictMono (Nat.lt_succ_self c)
  obtain h1 | ⟨h1, -⟩ := (hx (c + 1)).1 hstep <;> obtain h2 | ⟨h2, -⟩ := hhi <;> linarith

theorem RoundsToBits.unique {x : ℝ} {b c : Nat} (hb : RoundsToBits x b) (hc : RoundsToBits x c) : b = c :=
  le_antisymm (hb.le hc le_rfl) (hc.le hb le_rfl)

/-- Of three numbers in a row the last is the nearest to what is not below the midpoint of the last two; the first is as
near only when it is that midpoint. -/
theorem abs_sub_le_of_midpoint {x b n c : ℝ} (hcn : c ≤ n) (hnb : n < b) (hmid : n + b ≤ 2 * x) :
    |b - x| ≤ |c - x| ∧ (|c - x| = |b - x| → n + b = 2 * x) := by
  have hc : |c - x| = x - c := by
    rw [abs_sub_comm]
    exact abs_of_nonneg (by linarith)
  rw [hc]
  refine ⟨abs_le.2 ⟨by linarith, by linarith⟩, fun he => ?_⟩
  obtain h | h := abs_cases (b - x) <;> linarith

/-- No value is nearer than the rounded one, and another one is as near only where the rounded one is even. -/
theorem RoundsToBits.nearest {x : ℝ} {b : Nat} (h : RoundsToBits x b) (c : Nat) :
    |(bitsMag b : ℝ) - x| ≤ |(bitsMag c : ℝ) - x| ∧
      (|(bitsMag c : ℝ) - x| = |(bitsMag b : ℝ) - x| → c ≠ b → Even b) := by
  rcases lt_trichotomy c b with hc | rfl | hc
  · obtain ⟨n, rfl⟩ : ∃ n, b = n + 1 := ⟨b - 1, by omega⟩
    have hcn : (bitsMag c : ℝ) ≤ bitsMag n := by exact_mod_cast bitsMag_strictMono.monotone (Nat.lt_succ_iff.1 hc)
    have hnb : (bitsMag n : ℝ) < bitsMag (n + 1) := by exact_mod_cast bitsMag_lt_succ n
    have hmid := (h n).1 (Nat.lt_succ_self n)
    rw [midSum, Nat.cast_add] at hmid
    obtain ⟨hle, heq⟩ := abs_sub_le_of_midpoint hcn hnb (hmid.elim le_of_lt fun h => h.1.le)
    exact ⟨hle, fun he _ => (hmid.resolve_left fun hlt => hlt.ne (heq he)).2⟩
  · exact ⟨le_rfl, fun _ hne => absurd rfl hne⟩
  · have hbc : (bitsMag (b + 1) : ℝ) ≤ bitsMag c := by exact_mod_cast bitsMag_strictMono.monotone hc
    have hnb : (bitsMag b : ℝ) < bitsMag (b + 1) := by exact_mod_cast bitsMag_lt_succ b
    have hmid := (h b).2 le_rfl
    rw [midSum, Nat.cast_add] at hmid
    have hmid' : 2 * x ≤ bitsMag b + bitsMag (b + 1) := hmid.elim le_of_lt fun h => h.1.le
    obtain ⟨hle, heq⟩ := abs_sub_le_of_midpoint (x := -x) (neg_le_neg hbc) (neg_lt_neg hnb) (by linarith)
    rw [neg_sub_neg, neg_sub_neg, abs_sub_comm x, abs_sub_comm x] at hle heq
    exact ⟨hle, fun he _ => (hmid.resolve_left fun hlt => hlt.ne (by linarith [heq he])).2⟩

/-- At an odd pattern the midpoint above it goes up. -/
theorem RoundsToBits.le_iff_of_odd {x : ℝ} {b c : Nat} (h : RoundsToBits x b) (hc : ¬ Even c) :
    b ≤ c ↔ 2 * x < midSum c := by
  constructor
  · intro hbc
    refine ((h c).2 hbc).resolve_right fun ⟨he, hev⟩ => ?_
    have hlt : b < c := lt_of_le_of_ne hbc fun h' => hc (h' ▸ hev)
    obtain ⟨n, rfl⟩ : ∃ n, c = n + 1 := ⟨c - 1, by omega⟩
    have hmid : (midSum n : ℝ) < midSum (n + 1) := by exact_mod_cast midSum_strictMono (Nat.lt_succ_self n)
    obtain h1 | ⟨h1, -⟩ := (h n).2 (Nat.lt_succ_iff.1 hlt) <;> linarith
  · intro hlt
    by_contra hbc
    obtain h1 | ⟨h1, -⟩ := (h c).1 (not_le.1 hbc) <;> linarith

end Sys2Proof.F64

namespace Sys2Proof.F64

/-! ### The rounding function and the floor -/

theorem topBit_grid {q : Nat} (h : q < 2 ^ 2 ^ 13) :
    (topBit q - 52 = 0 ∨ 2 ^ 52 ≤ q / 2 ^ (topBit q - 52)) ∧ q / 2 ^ (topBit q - 52) < 2 ^ 53 := by
  rw [topBit_eq h]
  have hup : q < 2 ^ (Nat.log 2 q + 1) := Nat.lt_pow_succ_log_self (by decide) q
  rcases le_or_gt (Nat.log 2 q) 52 with hk | hk
  · rw [Nat.sub_eq_zero_of_le hk, pow_zero, Nat.div_one]
    exact ⟨.inl rfl, hup.trans_le (Nat.pow_le_pow_right (by decide) (by omega))⟩
  · have hq : q ≠ 0 := by rintro rfl; simp at hk
    have hlo : 2 ^ 52 * 2 ^ (Nat.log 2 q - 52) ≤ q := by
      rw [← pow_add, Nat.add_sub_cancel' hk.le]
      exact Nat.pow_log_le_self 2 hq
    refine ⟨.inr ((Nat.le_div_iff_mul_le (Nat.two_pow_pos _)).2 hlo), Nat.div_lt_of_lt_mul ?_⟩
    rwa [mul_comm, ← pow_add, show 53 + (Nat.log 2 q - 52) = Nat.log 2 q + 1 by omega]

section
variable {num den : Nat}

/-- The bits of the greatest value not above `num / den`, before any clamping. -/
theorem bitsMag_quotient (h : num / den < 2 ^ 2 ^ 13) :
    bitsMag ((topBit (num / den) - 52) * 2 ^ 52 + num / (den * 2 ^ (topBit (num / den) - 52))) =
        num / (den * 2 ^ (topBit (num / den) - 52)) * 2 ^ (topBit (num / den) - 52) ∧
      bitsMag ((topBit (num / den) - 52) * 2 ^ 52 + num / (den * 2 ^ (topBit (num / den) - 52)) + 1) =
        (num / (den * 2 ^ (topBit (num / den) - 52)) + 1) * 2 ^ (topBit (num / den) - 52) := by
  obtain ⟨hk, hm⟩ := topBit_grid h
  rw [← Nat.div_div_eq_div_mul, add_assoc]
  exact ⟨bitsMag_grid hk hm.le, bitsMag_grid (hk.imp_right (·.trans (Nat.le_succ _))) hm⟩

/-- What `floorRat` answers: the greatest finite value that is not above the exact one. -/
theorem floorRat_spec (hden : 0 < den) (h : num / den < 2 ^ 2 ^ 13) :
    ∃ b, floorRat num den = min b (infBits - 1) ∧ bitsMag b * den ≤ num ∧ num < bitsMag (b + 1) * den := by
  obtain ⟨hlo, hhi⟩ := bitsMag_quotient h
  refine ⟨_, rfl, ?_⟩
  rw [hlo, hhi, mul_assoc, mul_assoc, mul_comm _ den]
  have hstep : 0 < den * 2 ^ (topBit (num / den) - 52) := Nat.mul_pos hden (Nat.two_pow_pos _)
  exact ⟨Nat.div_mul_le_self _ _, by rw [mul_comm]; exact Nat.lt_mul_div_succ num hstep⟩

end

section
variable {num den k m rest : Nat} (hden : 0 < den) (hlo : bitsMag (k * 2 ^ 52 + m) = m * 2 ^ k)
  (hhi : bitsMag (k * 2 ^ 52 + m + 1) = (m + 1) * 2 ^ k) (hnum : den * 2 ^ k * m + rest = num)
include hden hlo hhi hnum

/-- A division by the spacing of the values, times `den`, brackets the quotient. -/
theorem quotient_between (hrest : rest < den * 2 ^ k) :
    (bitsMag (k * 2 ^ 52 + m) : ℝ) ≤ (num : ℝ) / den ∧ (num : ℝ) / den < bitsMag (k * 2 ^ 52 + m + 1) := by
  have hden' : (0 : ℝ) < den := by exact_mod_cast hden
  rw [hlo, hhi, le_div_iff₀ hden', div_lt_iff₀ hden', ← hnum]
  have hrest' : (rest : ℝ) < den * 2 ^ k := by exact_mod_cast hrest
  push_cast
  constructor <;> linarith [Nat.cast_nonneg (α := ℝ) rest]

/-- Twice the remainder against the divisor decides on which side of the midpoint the quotient is. -/
theorem two_mul_quotient :
    2 * ((num : ℝ) / den) = midSum (k * 2 ^ 52 + m) + ((2 * rest : Nat) - (den * 2 ^ k : Nat) : ℝ) / den := by
  have hden' : (0 : ℝ) < den := by exact_mod_cast hden
  rw [midSum, hlo, hhi, ← hnum]
  push_cast
  field_simp
  ring

/-- Rounding by the remainder, a tie to the even quotient. -/
theorem roundsToBits_of_rest (hrest : rest < den * 2 ^ k) :
    RoundsToBits ((num : ℝ) / den) (k * 2 ^ 52 +
      if decide (2 * rest > den * 2 ^ k) || (decide (2 * rest = den * 2 ^ k) && m % 2 == 1) then m + 1 else m) := by
  have hden' : (0 : ℝ) < den := by exact_mod_cast hden
  obtain ⟨hbelow, habove⟩ := quotient_between hden hlo hhi hnum hrest
  have htwice := two_mul_quotient hden hlo hhi hnum
  have heven : Even (k * 2 ^ 52) := ⟨k * 2 ^ 51, by ring⟩
  refine roundsToBits_of_floor hbelow habove ?_
  rw [htwice]
  rcases lt_trichotomy (2 * rest) (den * 2 ^ k) with hlt | heq | hgt
  · have hneg := div_neg_of_neg_of_pos (sub_neg.2 (Nat.cast_lt (α := ℝ).2 hlt)) hden'
    exact .inl ⟨by simp [hlt.ne, hlt.not_gt], .inl (by linarith)⟩
  · rw [heq, sub_self, zero_div, add_zero]
    rcases Nat.even_or_odd m with hm | hm
    · have h1 : ¬ m % 2 = 1 := by rw [Nat.even_iff.1 hm]; decide
      exact .inl ⟨by simp [h1], .inr ⟨rfl, by simpa [h1] using heven.add hm⟩⟩
    · have h1 : m % 2 = 1 := Nat.odd_iff.1 hm
      exact .inr ⟨by simp [h1, add_assoc], .inr ⟨rfl, by simpa [h1] using heven.add hm.add_one⟩⟩
  · have hpos := div_pos (sub_pos.2 (Nat.cast_lt (α := ℝ).2 hgt)) hden'
    exact .inr ⟨by simp [hgt, add_assoc], .inl (by linarith)⟩

end

/-- What `roundRat` answers: the exact value rounded to nearest, ties to even, or the bits of an infinity (R111). -/
theorem roundRat_spec {num den : Nat} (hden : 0 < den) (h : num / den < 2 ^ 2 ^ 13) :
    ∃ b, roundRat num den = min b infBits ∧ RoundsToBits ((num : ℝ) / den) b := by
  obtain ⟨hlo, hhi⟩ := bitsMag_quotient h
  exact ⟨_, rfl, roundsToBits_of_rest hden hlo hhi (Nat.div_add_mod ..)
    (Nat.mod_lt _ (Nat.mul_pos hden (Nat.two_pow_pos _)))⟩

/-! ### Sizes -/

theorem mag_lt (a : F64) {n : Nat} (h : 2099 ≤ n) : a.mag < 2 ^ n := by
  have he := expField_lt a
  have hf := fracField_lt a
  unfold mag
  split
  · exact hf.trans (Nat.pow_lt_pow_right (by decide) (by omega))
  · calc (2 ^ 52 + a.fracField) * 2 ^ (a.expField - 1)
      _ < 2 ^ 53 * 2 ^ (a.expField - 1) := Nat.mul_lt_mul_of_pos_right (by omega) (Nat.two_pow_pos _)
      _ = 2 ^ (53 + (a.expField - 1)) := (pow_add ..).symm
      _ ≤ 2 ^ n := Nat.pow_le_pow_right (by decide) (by omega)

/-- Products of this size are in reach of `topBit`. -/
theorem mul_lt_topBit {m n : Nat} (hm : m < 2 ^ 2 ^ 12) (hn : n < 2 ^ 2 ^ 12) : m * n < 2 ^ 2 ^ 13 := by
  rw [show 2 ^ 13 = 2 ^ 12 + 2 ^ 12 by decide, pow_add]
  exact Nat.mul_lt_mul'' hm hn

theorem mag_lt_topBit (a : F64) : a.mag < 2 ^ 2 ^ 12 := mag_lt a (by decide)

theorem unit_lt_topBit : unit < 2 ^ 2 ^ 12 := by
  rw [unit]
  gcongr <;> decide

theorem bitsMag_infBits : bitsMag infBits = 2 ^ 2098 := by decide +kernel

theorem midSum_greatest : midSum (infBits - 1) = 2 ^ 2099 - 2 ^ 2045 := by decide +kernel

end Sys2Proof.F64

namespace Sys2Proof.Machine
open F64

/-! ### Patterns as real numbers -/

/-- The number 1 in multiples of `2^-1074`, as a real number. -/
theorem unit_cast : ((unit : Nat) : ℝ) = 2 ^ 1074 := by rw [unit, Nat.cast_pow, Nat.cast_ofNat]

theorem unit_pos : (0 : ℝ) < (unit : Nat) := by rw [unit_cast]; positivity

theorem natUnit_pos : 0 < unit := by exact_mod_cast unit_pos

/-- Twice the midpoint between the greatest finite value and `2^1024`. -/
theorem midSum_greatest_cast : (midSum (infBits - 1) : ℝ) = 2 * ((2 ^ 1024 - 2 ^ 970) * (unit : Nat)) := by
  have hle : 2 ^ 2045 ≤ 2 ^ 2099 := by gcongr <;> decide
  rw [midSum_greatest, Nat.cast_sub hle, Nat.cast_pow, Nat.cast_pow,
    Nat.cast_ofNat, unit_cast, sub_mul, ← pow_add, ← pow_add, mul_sub, ← pow_succ', ← pow_succ']

theorem bitsMag_infBits_cast : (bitsMag infBits : ℝ) = 2 ^ 1024 * (unit : Nat) := by
  rw [bitsMag_infBits, Nat.cast_pow, Nat.cast_ofNat, unit_cast, ← pow_add]

theorem toRat_cast (a : F64) : (toRat a : ℝ) = a.signedMag / (unit : Nat) := by
  rw [toRat, unit_cast]
  push_cast
  rfl

theorem toRat_ofSignBits_false {b : Nat} (h : b < 2 ^ 63) :
    (toRat (ofSignBits false b) : ℝ) = bitsMag b / (unit : Nat) := by
  rw [toRat_cast, signedMag_ofSignBits false h, if_neg Bool.false_ne_true, Int.cast_natCast]

theorem abs_toRat (a : F64) : |(toRat a : ℝ)| = a.mag / (unit : Nat) := by
  rw [toRat_cast, abs_div, abs_of_pos unit_pos, ← signedMag_natAbs, ← Int.cast_abs, Int.abs_eq_natAbs, Int.cast_natCast]

theorem toRat_of_not_sign {a : F64} (h : a.sign = false) : (toRat a : ℝ) = a.mag / (unit : Nat) := by
  rw [toRat_cast, signedMag, h, if_neg Bool.false_ne_true, Int.cast_natCast]

theorem toRat_of_sign {a : F64} (h : a.sign = true) : (toRat a : ℝ) = -(a.mag / (unit : Nat)) := by
  rw [toRat_cast, signedMag, if_pos h, Int.cast_neg, Int.cast_natCast, neg_div]

theorem isZero_iff_toRat {a : F64} : a.isZero = true ↔ toRat a = 0 := by
  rw [toRat_eq_zero, ← Int.natAbs_eq_zero, signedMag_natAbs, mag_eq_zero]

theorem isZero_eq_false {a : F64} (h : toRat a ≠ 0) : a.isZero = false := by rwa [← Bool.not_eq_true, isZero_iff_toRat]

theorem getLsbD_zero_ofSignBits (neg : Bool) {b : Nat} (h : b < 2 ^ 63) (he : Even b) :
    (ofSignBits neg b).getLsbD 0 = false := by
  rw [← BitVec.testBit_toNat, toNat_ofSignBits neg h, Nat.testBit_zero, decide_eq_false_iff_not]
  have := Nat.even_iff.1 he
  split <;> omega

/-- A number has the sign of a sign bit; zero has both. -/
def HasSign (neg : Bool) (v : ℝ) : Prop := if neg then v ≤ 0 else 0 ≤ v

theorem hasSign_toRat (a : F64) : HasSign a.sign (toRat a) := by
  rw [toRat_cast, signedMag]
  cases a.sign
  · exact div_nonneg (by simp) unit_pos.le
  · exact div_nonpos_of_nonpos_of_nonneg (by simp) unit_pos.le

theorem hasSign_div_unit (z : Int) : HasSign (decide (z < 0)) (z / (unit : Nat)) := by
  rcases lt_or_ge z 0 with h | h
  · rw [decide_eq_true h]
    exact div_nonpos_of_nonpos_of_nonneg (by exact_mod_cast h.le) unit_pos.le
  · rw [decide_eq_false h.not_gt]
    exact div_nonneg (by exact_mod_cast h) unit_pos.le

theorem sign_eq_true_of_neg {a : F64} (h : toRat a < 0) : a.sign = true := by
  rw [← Bool.not_eq_false]
  intro hs
  have hpos := hasSign_toRat a
  rw [hs] at hpos
  exact absurd (show (0 : ℝ) ≤ toRat a from hpos) (not_le.2 (by exact_mod_cast h))

theorem sign_eq_false_of_pos {a : F64} (h : 0 < toRat a) : a.sign = false := by
  rw [← Bool.not_eq_true]
  intro hs
  have hneg := hasSign_toRat a
  rw [hs] at hneg
  exact absurd (show (toRat a : ℝ) ≤ 0 from hneg) (not_le.2 (by exact_mod_cast h))

theorem HasSign.mul {p q : Bool} {x y : ℝ} (hx : HasSign p x) (hy : HasSign q y) : HasSign (p != q) (x * y) := by
  cases p <;> cases q
  · exact mul_nonneg hx hy
  · exact mul_nonpos_of_nonneg_of_nonpos hx hy
  · exact mul_nonpos_of_nonpos_of_nonneg hx hy
  · exact mul_nonneg_of_nonpos_of_nonpos hx hy

theorem HasSign.inv {p : Bool} {x : ℝ} (hx : HasSign p x) : HasSign p x⁻¹ := by
  cases p
  · exact inv_nonneg.2 hx
  · exact inv_nonpos.2 hx

theorem HasSign.mul_self_nonneg {p : Bool} {x y : ℝ} (hx : HasSign p x) (hy : HasSign p y) : 0 ≤ x * y := by
  cases p
  · exact mul_nonneg hx hy
  · exact mul_nonneg_of_nonpos_of_nonpos hx hy

/-- The nearest magnitude with the sign of the number is the nearest number. -/
theorem nearest_toRat_of_roundsToBits {v : ℝ} {r : F64} {b : Nat} (hb : RoundsToBits (|v| * (unit : Nat)) b)
    (hr : |(toRat r : ℝ)| = bitsMag b / (unit : Nat)) (hsame : 0 ≤ (toRat r : ℝ) * v) (z : F64) :
    |(toRat r : ℝ) - v| ≤ |(toRat z : ℝ) - v| ∧
      (|(toRat z : ℝ) - v| = |(toRat r : ℝ) - v| → toRat z ≠ toRat r → Even b) := by
  have hu := unit_pos
  have hz := abs_toRat z
  rw [mag_eq_bitsMag] at hz
  have hscale (c : Nat) :
      |(bitsMag c : ℝ) / (unit : Nat) - (|v|)| = |(bitsMag c : ℝ) - |v| * (unit : Nat)| / (unit : Nat) := by
    rw [← abs_of_pos hu, ← abs_div, abs_of_pos hu, sub_div, mul_div_cancel_right₀ _ hu.ne']
  have hrv : |(toRat r : ℝ) - v| = |(bitsMag b : ℝ) - |v| * (unit : Nat)| / (unit : Nat) := by
    rw [← hscale, ← hr, ← sq_eq_sq₀ (abs_nonneg _) (abs_nonneg _), sq_abs, sq_abs, sub_sq, sub_sq, sq_abs, sq_abs,
      mul_assoc, mul_assoc, ← abs_mul, abs_of_nonneg hsame]
  have hzv := abs_abs_sub_abs_le (toRat z : ℝ) v
  rw [hz, hscale] at hzv
  obtain ⟨hnear, htie⟩ := hb.nearest (z.toNat % 2 ^ 63)
  have hnear' := (div_le_div_iff_of_pos_right hu).2 hnear
  refine ⟨hrv.trans_le (hnear'.trans hzv), fun he hne => ?_⟩
  by_cases hc : z.toNat % 2 ^ 63 = b
  · exfalso
    rw [hc, ← hr] at hz
    have hopp : (toRat z : ℝ) = -toRat r := (abs_eq_abs.1 hz).resolve_left fun h => hne (by exact_mod_cast h)
    have hprod : (toRat r : ℝ) * v = 0 := by
      rw [hopp, ← sq_eq_sq₀ (abs_nonneg _) (abs_nonneg _), sq_abs, sq_abs] at he
      linarith
    have hr0 : (toRat r : ℝ) = 0 := (mul_eq_zero.1 hprod).elim id fun hv => by
      have h0 := (hb.nearest 0).1
      rw [hv, abs_zero, zero_mul, sub_zero, sub_zero, bitsMag_zero, Nat.cast_zero, abs_zero] at h0
      rw [← abs_eq_zero, hr, abs_nonpos_iff.1 h0, zero_div]
    rw [hr0, neg_zero, ← hr0] at hopp
    exact hne (by exact_mod_cast hopp)
  · refine htie (le_antisymm ?_ hnear) hc
    rw [he, hrv] at hzv
    exact (div_le_div_iff_of_pos_right hu).1 hzv

/-- Rounding the magnitude and keeping the sign rounds the number, an infinity from the bits of infinity on (R111). -/
theorem roundsTo_ofSignBits {v : ℝ} {neg : Bool} {b : Nat} (hb : RoundsToBits (|v| * (unit : Nat)) b)
    (hneg : HasSign neg v) : RoundsTo v (ofSignBits neg (min b infBits)) := by
  have hlt : min b infBits < 2 ^ 63 := lt_of_le_of_lt (Nat.min_le_right _ _) (by decide)
  have hsign := sign_ofSignBits neg hlt
  have hmod : (ofSignBits neg (min b infBits)).toNat % 2 ^ 63 = min b infBits := by
    rw [toNat_ofSignBits neg hlt]
    split <;> omega
  have hfin : (ofSignBits neg (min b infBits)).isFinite = true ↔ b < infBits := by rw [isFinite_iff, hmod]; omega
  have hu := unit_pos
  have hle : b < infBits ↔ |v| < 2 ^ 1024 - 2 ^ 970 := by
    have h := hb.le_iff_of_odd (c := infBits - 1) (by decide)
    rw [midSum_greatest_cast, mul_lt_mul_iff_right₀ two_pos, mul_lt_mul_iff_left₀ hu] at h
    rw [← h]
    unfold infBits
    omega
  refine ⟨hfin.trans hle, fun hr z _ => ?_, fun hr => ?_⟩
  · rw [hfin] at hr
    rw [min_eq_left hr.le] at hlt ⊢
    have habs : |(toRat (ofSignBits neg b) : ℝ)| = bitsMag b / (unit : Nat) := by rw [abs_toRat, mag_ofSignBits neg hlt]
    have hsame : 0 ≤ (toRat (ofSignBits neg b) : ℝ) * v := by
      have hs := hasSign_toRat (ofSignBits neg b)
      rw [sign_ofSignBits neg hlt] at hs
      exact hs.mul_self_nonneg hneg
    obtain ⟨hnear, htie⟩ := nearest_toRat_of_roundsToBits hb habs hsame z
    exact ⟨hnear, fun he hne => getLsbD_zero_ofSignBits neg hlt (htie he hne)⟩
  · have hinf : ¬ b < infBits := fun h => by simp [hfin.2 h] at hr
    have hv : v ≠ 0 := by
      rintro rfl
      refine hinf (hle.2 ?_)
      rw [abs_zero, sub_pos]
      exact pow_lt_pow_right₀ one_lt_two (by decide)
    rw [hsign, min_eq_right (not_lt.1 hinf)]
    cases neg
    · exact ⟨by decide, by simpa [HasSign] using hneg⟩
    · exact ⟨by decide, by simpa using lt_of_le_of_ne hneg hv⟩

end Sys2Proof.Machine

namespace Sys2Proof.F64

/-! ### Kinds of values -/

theorem isNaN_of_isFinite {a : F64} (h : a.isFinite = true) : a.isNaN = false := by
  rw [isNaN, beq_eq_false_iff_ne.2 (bne_iff_ne.1 h), Bool.false_and]

theorem isInf_of_isFinite {a : F64} (h : a.isFinite = true) : a.isInf = false := by
  rw [isInf, beq_eq_false_iff_ne.2 (bne_iff_ne.1 h), Bool.false_and]

@[simp] theorem sign_neg (a : F64) : (neg a).sign = !a.sign := by simp [sign, neg]

@[simp] theorem isFinite_neg (a : F64) : (neg a).isFinite = a.isFinite := by simp [isFinite]

@[simp] theorem signedMag_neg (a : F64) : (neg a).signedMag = -a.signedMag := by
  cases h : a.sign <;> simp [signedMag, mag, h]

end Sys2Proof.F64

namespace Sys2Proof.Machine
open F64

/-! ### The four operations and the square root are correctly rounded -/

theorem roundsTo_roundRat {v : ℝ} {neg : Bool} {num den : Nat} (hden : 0 < den) (h : num / den < 2 ^ 2 ^ 13)
    (hv : |v| * (unit : Nat) = num / den) (hneg : HasSign neg v) :
    RoundsTo v (ofSignBits neg (roundRat num den)) := by
  obtain ⟨b, hb, hround⟩ := roundRat_spec hden h
  rw [hb]
  exact roundsTo_ofSignBits (hv ▸ hround) hneg

/-- Zero rounds to a zero of either sign. -/
theorem roundsTo_zero (neg : Bool) : RoundsTo 0 (ofSignBits neg 0) := by
  have h : RoundsToBits (|0| * (unit : Nat)) 0 := by
    rw [abs_zero, zero_mul]
    have h := roundsToBits_bitsMag 0
    rwa [bitsMag_zero, Nat.cast_zero] at h
  have hzero : HasSign neg 0 := by cases neg <;> exact le_rfl
  have hround := roundsTo_ofSignBits h hzero
  rwa [Nat.zero_min] at hround

/-- The sum of two finite values is a whole number of units, which `add` rounds. -/
theorem roundsTo_add (nan : F64) {a b : F64} (ha : a.isFinite = true) (hb : b.isFinite = true) :
    RoundsTo ((toRat a : ℝ) + toRat b) (add nan a b) := by
  have hu := unit_pos
  have hv : (toRat a : ℝ) + toRat b = ((a.signedMag + b.signedMag : Int) : ℝ) / (unit : Nat) := by
    rw [toRat_cast, toRat_cast, Int.cast_add, add_div]
  have hsize : (a.signedMag + b.signedMag).natAbs / 1 < 2 ^ 2 ^ 13 := by
    rw [Nat.div_one]
    refine (Int.natAbs_add_le _ _).trans_lt ?_
    rw [signedMag_natAbs, signedMag_natAbs, ← Nat.two_pow_pred_add_two_pow_pred (by decide)]
    exact Nat.add_lt_add (mag_lt a (by decide)) (mag_lt b (by decide))
  simp only [add, isNaN_of_isFinite ha, isNaN_of_isFinite hb, isInf_of_isFinite ha, isInf_of_isFinite hb, Bool.or_self,
    Bool.false_eq_true, if_false]
  rw [hv]
  generalize a.signedMag + b.signedMag = z at *
  split
  · rename_i hz
    rw [hz, Int.cast_zero, zero_div]
    exact roundsTo_zero _
  · refine roundsTo_roundRat one_pos hsize ?_ (hasSign_div_unit z)
    rw [abs_div, abs_of_pos hu, div_mul_cancel₀ _ hu.ne', Nat.cast_one, div_one, ← Int.cast_abs, Int.abs_eq_natAbs,
      Int.cast_natCast]

theorem toRat_neg_eq (a : F64) : (toRat (neg a) : ℝ) = -toRat a := by
  rw [toRat_cast, toRat_cast, signedMag_neg, Int.cast_neg, neg_div]

/-- Settles O48: subtraction is addition of the negated second operand. -/
theorem additionIsCorrectlyRounded : Obligations.AdditionIsCorrectlyRounded := by
  intro d a b ha hb
  refine ⟨roundsTo_add _ ha hb, ?_⟩
  rw [sub_eq_add_neg, ← toRat_neg_eq]
  exact roundsTo_add _ ha (by rwa [isFinite_neg])

/-- Settles O49: the product of the magnitudes is exact, in units of the square of the unit. -/
theorem multiplicationIsCorrectlyRounded : Obligations.MultiplicationIsCorrectlyRounded := by
  intro d a b ha hb
  have hu := unit_pos
  change RoundsTo _ (mul _ a b)
  simp only [mul, isNaN_of_isFinite ha, isNaN_of_isFinite hb, isInf_of_isFinite ha, isInf_of_isFinite hb, Bool.or_self,
    Bool.false_eq_true, if_false]
  refine roundsTo_roundRat natUnit_pos ?_ ?_ ((hasSign_toRat a).mul (hasSign_toRat b))
  · exact (Nat.div_le_self _ _).trans_lt (mul_lt_topBit (mag_lt_topBit a) (mag_lt_topBit b))
  · rw [abs_mul, abs_toRat, abs_toRat, Nat.cast_mul]
    field_simp

/-- A finite value that is not zero has a magnitude. -/
theorem mag_pos {a : F64} (h : toRat a ≠ 0) : 0 < a.mag := by
  rw [ne_eq, toRat_eq_zero, ← Int.natAbs_eq_zero, signedMag_natAbs] at h
  exact Nat.pos_of_ne_zero h

/-- Settles O50: the quotient of the magnitudes is the fraction that is rounded. -/
theorem divisionIsCorrectlyRounded : Obligations.DivisionIsCorrectlyRounded := by
  intro d a b ha hb h0
  have hu := unit_pos
  have hmag := mag_pos h0
  have hzero := isZero_eq_false h0
  change RoundsTo _ (div _ a b)
  simp only [div, isNaN_of_isFinite ha, isNaN_of_isFinite hb, isInf_of_isFinite ha, isInf_of_isFinite hb, hzero,
    Bool.or_self, Bool.false_eq_true, if_false]
  refine roundsTo_roundRat hmag ?_ ?_ ((hasSign_toRat a).mul (hasSign_toRat b).inv)
  · exact (Nat.div_le_self _ _).trans_lt (mul_lt_topBit (mag_lt_topBit a) unit_lt_topBit)
  · have hmag' : (0 : ℝ) < b.mag := by exact_mod_cast hmag
    rw [abs_div, abs_toRat, abs_toRat, Nat.cast_mul]
    field_simp

end Sys2Proof.Machine

namespace Sys2Proof.F64

/-! ### The square root -/

/-- There are two zeros. -/
theorem ofSignBits_of_isZero {a : F64} (h : a.isZero = true) : ofSignBits a.sign 0 = a := by
  rw [← mag_eq_zero, mag_eq_bitsMag] at h
  have hbits : a.toNat % 2 ^ 63 = 0 := bitsMag_strictMono.injective (h.trans bitsMag_zero.symm)
  rw [← hbits, ofSignBits_sign_mod]

/-- The root of `n` bit by bit: the answer's square is the greatest one that is not above `n`. -/
theorem isqrtFrom_spec (n : Nat) : ∀ k r : Nat, r * r ≤ n → n < (r + 2 ^ k) * (r + 2 ^ k) →
    isqrtFrom n k r * isqrtFrom n k r ≤ n ∧ n < (isqrtFrom n k r + 1) * (isqrtFrom n k r + 1) := by
  intro k
  induction k with
  | zero => exact fun r hlo hhi => ⟨hlo, hhi⟩
  | succ k ih =>
    intro r hlo hhi
    rw [isqrtFrom]
    split
    · rename_i hc
      exact ih _ hc (by rwa [add_assoc, ← two_mul, ← pow_succ'])
    · rename_i hc
      exact ih _ hlo (not_le.1 hc)

/-- A midpoint has 54 significant bits. -/
theorem exists_midSum (c : Nat) : ∃ k m : Nat, m < 2 ^ 53 ∧ midSum c = (2 * m + 1) * 2 ^ k := by
  obtain ⟨k, m, h, hm, rfl⟩ := exists_grid c
  refine ⟨k, m, hm, ?_⟩
  rw [midSum, add_assoc, bitsMag_grid h hm.le, bitsMag_grid (h.imp_right (·.trans (Nat.le_succ m))) hm,
    Nat.succ_eq_add_one]
  ring

/-- No midpoint lies strictly between two neighbouring numbers of 60 bits or more. -/
theorem midSum_not_between {r : Nat} (j : Nat) (hr : 2 ^ 60 ≤ r + 1) (c : Nat) :
    midSum c ≤ 2 * (r * 2 ^ j) ∨ 2 * ((r + 1) * 2 ^ j) ≤ midSum c := by
  obtain ⟨k, m, hm, hc⟩ := exists_midSum c
  rw [hc]
  rcases le_or_gt k j with hk | hk
  · left
    calc (2 * m + 1) * 2 ^ k
      _ ≤ 2 * r * 2 ^ k := Nat.mul_le_mul_right _ (by omega)
      _ ≤ 2 * r * 2 ^ j := Nat.mul_le_mul_left _ (Nat.pow_le_pow_right (by decide) hk)
      _ = 2 * (r * 2 ^ j) := mul_assoc ..
  · obtain ⟨i, rfl⟩ := Nat.exists_eq_add_of_lt hk
    have hsplit : (2 * m + 1) * 2 ^ (j + i + 1) = 2 * ((2 * m + 1) * 2 ^ i * 2 ^ j) := by ring
    rw [hsplit]
    rcases le_or_gt ((2 * m + 1) * 2 ^ i) r with h | h
    · exact .inl (Nat.mul_le_mul_left _ (Nat.mul_le_mul_right _ h))
    · exact .inr (Nat.mul_le_mul_left _ (Nat.mul_le_mul_right _ h))

/-- Two numbers with no midpoint between them round alike. -/
theorem RoundsToBits.of_between {x y lo hi : ℝ} {b : Nat} (hy : RoundsToBits y b) (hylo : lo < y) (hyhi : y < hi)
    (hxlo : lo < x) (hxhi : x < hi) (hmid : ∀ c : Nat, (midSum c : ℝ) ≤ 2 * lo ∨ 2 * hi ≤ midSum c) :
    RoundsToBits x b := by
  intro c
  refine ⟨fun hc => .inl ?_, fun hc => .inl ?_⟩
  · obtain h | ⟨h, -⟩ := (hy c).1 hc <;> obtain hc | hc := hmid c <;> linarith
  · obtain h | ⟨h, -⟩ := (hy c).2 hc <;> obtain hc | hc := hmid c <;> linarith

/-- The bracket that `sqrt` computes around the root of `n`: a root `r` of 60 bits or more of the leading part. -/
theorem sqrt_bracket {n : Nat} (hlo : 2 ^ 120 ≤ n) (hhi : n < 2 ^ 2 ^ 13) :
    let j := topBit n / 2 - 60
    let r := isqrtFrom (n / 4 ^ j) 62 0
    2 ^ 60 ≤ r + 1 ∧ r * r * 4 ^ j ≤ n ∧ n < (r + 1) * (r + 1) * 4 ^ j := by
  intro j r
  have hn : n ≠ 0 := by rintro rfl; simp at hlo
  have hj : j = Nat.log 2 n / 2 - 60 := by rw [← topBit_eq hhi]
  have hlog : 120 ≤ Nat.log 2 n := (Nat.le_log_iff_pow_le (by decide) hn).2 hlo
  have hpos : 0 < 4 ^ j := Nat.pow_pos (by decide)
  have hfour (i : Nat) : 4 ^ i * 4 ^ j = 2 ^ (2 * (i + j)) := by
    rw [← pow_add, pow_mul]
    norm_num
  have hup : n / 4 ^ j < 4 ^ 62 := by
    refine Nat.div_lt_of_lt_mul ?_
    rw [mul_comm, hfour]
    exact (Nat.lt_pow_succ_log_self (by decide) n).trans_le (Nat.pow_le_pow_right (by decide) (by omega))
  have hdown : 4 ^ 60 ≤ n / 4 ^ j := by
    rw [Nat.le_div_iff_mul_le hpos, hfour]
    exact (Nat.pow_le_pow_right (by decide) (by omega)).trans (Nat.pow_log_le_self 2 hn)
  obtain ⟨hsq, hsq'⟩ : r * r ≤ n / 4 ^ j ∧ n / 4 ^ j < (r + 1) * (r + 1) :=
    isqrtFrom_spec _ 62 0 (Nat.zero_le _) (hup.trans_eq (by decide))
  refine ⟨?_, ?_, ?_⟩
  · by_contra h
    have : (r + 1) * (r + 1) ≤ 2 ^ 60 * 2 ^ 60 := Nat.mul_le_mul (not_le.1 h).le (not_le.1 h).le
    omega
  · exact (Nat.le_div_iff_mul_le hpos).1 hsq
  · exact (Nat.div_lt_iff_lt_mul hpos).1 hsq'

theorem mul_self_mul_four_pow (t j : Nat) : t * t * 4 ^ j = (t * 2 ^ j) * (t * 2 ^ j) := by
  rw [mul_mul_mul_comm, ← mul_pow]
  norm_num

/-- The number that `sqrt` rounds is in reach of `topBit`. -/
theorem sqrt_size {n r j : Nat} (hr : 2 ≤ r) (h : r * r * 4 ^ j ≤ n) : (2 * r + 1) * 2 ^ j / 2 ≤ n := by
  refine Nat.div_le_of_le_mul ?_
  have hone := Nat.one_le_two_pow (n := j)
  rw [mul_self_mul_four_pow] at h
  calc (2 * r + 1) * 2 ^ j
    _ ≤ 2 * ((r * 2 ^ j) * (r * 2 ^ j)) := by nlinarith [Nat.mul_le_mul hr hone]
    _ ≤ 2 * n := Nat.mul_le_mul_left _ h

/-- An inexact root rounds like the middle of its bracket. -/
theorem RoundsToBits.sqrt {n r j b : Nat} (hr : 2 ^ 60 ≤ r + 1) (hlo : r * r * 4 ^ j < n)
    (hhi : n < (r + 1) * (r + 1) * 4 ^ j) (h : RoundsToBits (((2 * r + 1) * 2 ^ j : Nat) / (2 : Nat)) b) :
    RoundsToBits (Real.sqrt n) b := by
  have hmiddle : (((2 * r + 1) * 2 ^ j : Nat) : ℝ) / (2 : Nat) = ((r * 2 ^ j : Nat) : ℝ) + 2 ^ j / 2 := by
    push_cast
    ring
  have hpos : (0 : ℝ) < 2 ^ j := by positivity
  rw [mul_self_mul_four_pow] at hlo hhi
  refine h.of_between (lo := (r * 2 ^ j : Nat)) (hi := ((r + 1) * 2 ^ j : Nat)) ?_ ?_ ?_ ?_ fun c => ?_
  · rw [hmiddle]
    linarith
  · rw [hmiddle]
    push_cast
    linarith
  · rw [Real.lt_sqrt (Nat.cast_nonneg _), sq]
    exact_mod_cast hlo
  · rw [Real.sqrt_lt' (by positivity), sq]
    exact_mod_cast hhi
  · exact (midSum_not_between j hr c).imp (by exact_mod_cast ·) (by exact_mod_cast ·)

/-- What `sqrt` hands to the rounding function has the root's rounding: it is the root itself, or the middle of the
root's bracket. -/
theorem roundRat_sqrt {n : Nat} (hlo : 2 ^ 120 ≤ n) (hhi : n < 2 ^ 2 ^ 13) :
    let j := topBit n / 2 - 60
    let r := isqrtFrom (n / 4 ^ j) 62 0
    let twice := if r * r * 4 ^ j = n then 2 * r else 2 * r + 1
    ∃ b, roundRat (twice * 2 ^ j) 2 = min b infBits ∧ RoundsToBits (Real.sqrt n) b := by
  intro j r twice
  obtain ⟨hr, hsq, hsq'⟩ : 2 ^ 60 ≤ r + 1 ∧ r * r * 4 ^ j ≤ n ∧ n < (r + 1) * (r + 1) * 4 ^ j := sqrt_bracket hlo hhi
  have hsize : twice * 2 ^ j / 2 < 2 ^ 2 ^ 13 := by
    have htwice : twice ≤ 2 * r + 1 := by
      unfold twice
      split <;> omega
    exact (Nat.div_le_div_right (Nat.mul_le_mul_right _ htwice)).trans_lt ((sqrt_size (by omega) hsq).trans_lt hhi)
  obtain ⟨b, hb, hround⟩ := roundRat_spec two_pos hsize
  refine ⟨b, hb, ?_⟩
  by_cases hexact : r * r * 4 ^ j = n
  · have hroot : Real.sqrt n = (twice * 2 ^ j : Nat) / (2 : Nat) := by
      rw [← hexact, mul_self_mul_four_pow, Nat.cast_mul, Real.sqrt_mul_self (Nat.cast_nonneg _),
        show twice = 2 * r from if_pos hexact]
      push_cast
      ring
    rwa [hroot]
  · rw [show twice = 2 * r + 1 from if_neg hexact] at hround
    exact hround.sqrt hr (lt_of_le_of_ne hsq hexact) hsq'

end Sys2Proof.F64

namespace Sys2Proof.Machine
open F64

/-- A root in multiples of the unit. -/
theorem sqrt_div_unit_mul (m : Nat) :
    Real.sqrt (m / (unit : Nat)) * (unit : Nat) = Real.sqrt ((m * unit : Nat) : ℝ) := by
  have hu := unit_pos
  have hsq : ((m * unit : Nat) : ℝ) = m / (unit : Nat) * ((unit : Nat) * (unit : Nat)) := by
    rw [Nat.cast_mul]
    field_simp
  rw [hsq, Real.sqrt_mul (div_nonneg (Nat.cast_nonneg _) hu.le), Real.sqrt_mul_self hu.le]

/-- Settles O51: in multiples of the unit the root of `mag` is the root of the integer `mag * unit`. -/
theorem squareRootIsCorrectlyRounded : Obligations.SquareRootIsCorrectlyRounded := by
  intro d a ha h0
  change RoundsTo _ (sqrt _ a)
  simp only [sqrt, isNaN_of_isFinite ha, isInf_of_isFinite ha, Bool.false_eq_true, if_false]
  rcases h0.lt_or_eq with hpos | h0
  · have hs := sign_eq_false_of_pos hpos
    have hlo : 2 ^ 120 ≤ a.mag * unit := by
      refine le_trans ?_ (Nat.le_mul_of_pos_left _ (mag_pos hpos.ne'))
      unfold unit
      gcongr <;> decide
    obtain ⟨b, hb, hround⟩ := roundRat_sqrt hlo (mul_lt_topBit (mag_lt_topBit a) unit_lt_topBit)
    simp only [hs, isZero_eq_false hpos.ne', Bool.false_eq_true, if_false, hb]
    refine roundsTo_ofSignBits (neg := false) ?_ (Real.sqrt_nonneg _)
    rwa [abs_of_nonneg (Real.sqrt_nonneg _), toRat_of_not_sign hs, sqrt_div_unit_mul]
  · have hz : a.isZero = true := isZero_iff_toRat.2 h0.symm
    rw [← h0, Rat.cast_zero, Real.sqrt_zero, if_pos hz, ← ofSignBits_of_isZero hz]
    exact roundsTo_zero _

end Sys2Proof.Machine

namespace Sys2Proof.F64

/-! ### Zeros, infinities and NaNs as operands -/

theorem isNaN_iff (a : F64) : a.isNaN = true ↔ a.expField = 2047 ∧ a.fracField ≠ 0 := by
  simp [isNaN]

theorem expField_or (a b : F64) : expField (a ||| b) = expField a ||| expField b := by
  unfold expField
  rw [BitVec.toNat_or, Nat.or_div_two_pow, Nat.or_mod_two_pow]

theorem fracField_or (a b : F64) : fracField (a ||| b) = fracField a ||| fracField b := by
  unfold fracField
  rw [BitVec.toNat_or, Nat.or_mod_two_pow]

/-- A pattern ORed with all ones in the exponent has all ones there. -/
theorem expField_or_of_ones (a : F64) {b : F64} (h : b.expField = 2047) : expField (a ||| b) = 2047 := by
  have hlt := expField_lt (a ||| b)
  have hle : 2047 ≤ expField (a ||| b) := by
    rw [expField_or, h]
    exact Nat.right_le_or
  omega

/-- Whatever the free bits are, the result is a NaN (R111). -/
theorem isNaN_nanOfBits (b : BitVec 64) : (nanOfBits b).isNaN = true := by
  have hc : expField (b ||| 0x7FF0000000000000) = 2047 := expField_or_of_ones b (by decide)
  rw [isNaN_iff]
  unfold nanOfBits
  dsimp only
  split
  · refine ⟨by rw [expField_or, hc]; decide, ?_⟩
    rw [fracField_or]
    exact (lt_of_lt_of_le (by decide) Nat.right_le_or).ne'
  · exact ⟨hc, ‹_›⟩

theorem isNaN_of_isInf {a : F64} (h : a.isInf = true) : a.isNaN = false := by
  simp only [isInf, Bool.and_eq_true, beq_iff_eq] at h
  simp [isNaN, h]

theorem isNaN_of_isZero {a : F64} (h : a.isZero = true) : a.isNaN = false := by
  simp only [isZero, Bool.and_eq_true, beq_iff_eq] at h
  simp [isNaN, h]

theorem isInf_of_isZero {a : F64} (h : a.isZero = true) : a.isInf = false := by
  simp only [isZero, Bool.and_eq_true, beq_iff_eq] at h
  simp [isInf, h]

theorem isInf_inf (neg : Bool) : (inf neg).isInf = true := by cases neg <;> decide

/-- An operation with a NaN operand answers the NaN it was given. -/
theorem ops_of_isNaN {nan a b : F64} (h : a.isNaN = true ∨ b.isNaN = true) :
    add nan a b = nan ∧ sub nan a b = nan ∧ mul nan a b = nan ∧ div nan a b = nan := by
  have hor : (a.isNaN || b.isNaN) = true := by simpa using h
  simp [add, sub, mul, div, hor]

end Sys2Proof.F64

namespace Sys2Proof.Machine
open F64

theorem isNaN_producedNaN (d : Nat) (op : Config.FOp) (a b : F64) : (producedNaN d op a b).isNaN = true :=
  isNaN_nanOfBits _

/-- Settles O52: each special case is a branch of its operation. -/
theorem specialOperandsOfTheOperations : Obligations.SpecialOperandsOfTheOperations := by
  intro d a b
  have nan := isNaN_producedNaN d
  refine ⟨fun ha h0 hb => ?_, fun ha hb => ?_, fun ha hb => ⟨fun hs => ?_, fun hs => ?_⟩, fun ha hb => ⟨?_, ?_⟩,
    fun ha h0 => ?_, fun h => ?_, fun h => ⟨?_, ?_, ?_, ?_⟩⟩
  · -- `x / 0`
    simpa [num, div, isNaN_of_isFinite ha, isInf_of_isFinite ha, isZero_eq_false h0, hb, isNaN_of_isZero hb,
      isInf_of_isZero hb] using isInf_inf _
  · -- `0 / 0`
    simpa [num, div, ha, hb, isNaN_of_isZero ha, isNaN_of_isZero hb, isInf_of_isZero ha, isInf_of_isZero hb]
      using nan .div a b
  · -- `inf - inf`
    simpa [num, sub, add, ha, hb, hs, isNaN_of_isInf ha, isNaN_of_isInf hb] using nan .sub a b
  · -- `inf + (-inf)`
    simpa [num, add, ha, hb, hs, isNaN_of_isInf ha, isNaN_of_isInf hb] using nan .add a b
  · -- `0 * inf` and `inf * 0`
    simpa [num, mul, ha, hb, isNaN_of_isZero ha, isNaN_of_isInf hb] using nan .mul a b
  · simpa [num, mul, ha, hb, isNaN_of_isZero ha, isNaN_of_isInf hb] using nan .mul b a
  · -- the root of a negative number
    have hs := sign_eq_true_of_neg h0
    have hz := isZero_eq_false h0.ne
    simpa [num, sqrt, isNaN_of_isFinite ha, hz, hs] using nan .sqrt a a
  · -- NaN operands
    simp [num, ops_of_isNaN h, nan]
  · simpa [num, sqrt, h] using nan .sqrt a a
  · simpa [num, ceil, h] using nan .ceil a a
  · simpa [num, floor, h] using nan .floor a a
  · simpa [num, fexp, h] using isNaN_nanOfBits _

/-! ### Conversions -/

/-- `t(x)` of an integer is that integer. -/
theorem towardZero_intCast (z : Int) : towardZero z = z := by simp [towardZero]

/-- Settles O53: the integer the conversion computes is the truncation toward zero. -/
theorem truncationIsTowardZero : Obligations.TruncationIsTowardZero := by
  intro x v
  rw [towardZero_toRat, truncI32]
  cases x.isFinite
  · simp
  · simp only [if_true, true_and, ← and_assoc]
    split
    · rename_i h
      rw [Option.some_inj, eq_comm]
      exact (and_iff_right h).symm
    · rename_i h
      exact iff_of_false nofun fun hv => h hv.1

/-- The values in order are the patterns in order (R116). -/
theorem orderKey_le_iff (a b : F64) : a.orderKey ≤ b.orderKey ↔ toRat a ≤ toRat b := by
  have mono (i j : Nat) : bitsMag i ≤ bitsMag j ↔ i ≤ j := bitsMag_strictMono.le_iff_le
  have hab := mono (a.toNat % 2 ^ 63) (b.toNat % 2 ^ 63)
  have hba := mono (b.toNat % 2 ^ 63) (a.toNat % 2 ^ 63)
  have ha0 := mono (a.toNat % 2 ^ 63) 0
  have hb0 := mono (b.toNat % 2 ^ 63) 0
  rw [bitsMag_zero] at ha0 hb0
  rw [toRat_le, orderKey, orderKey, signedMag, signedMag, mag_eq_bitsMag, mag_eq_bitsMag]
  cases a.sign <;> cases b.sign <;> simp only [Bool.false_eq_true, if_false, if_true] <;> omega

theorem orderKey_lt_iff (a b : F64) : a.orderKey < b.orderKey ↔ toRat a < toRat b := by
  rw [← not_le, ← not_le, orderKey_le_iff]

theorem isFinite_eq (a : F64) : a.isFinite = (!a.isNaN && !a.isInf) := by
  by_cases h : a.expField = 2047
  · by_cases h' : a.fracField = 0 <;> simp [isFinite, isNaN, isInf, h, h']
  · simp [isFinite, isNaN, isInf, bne, beq_eq_false_iff_ne.2 h]

theorem toRat_zero : toRat 0 = 0 := (toRat_eq_zero _).2 (by decide)

/-- Settles O55: the order of the patterns is the order of the numbers. -/
theorem sigmaTestAcceptsPositiveFiniteValues : Obligations.SigmaTestAcceptsPositiveFiniteValues := by
  intro s
  have hnan : isNaN 0 = false := by decide
  rw [← toRat_zero, ← orderKey_lt_iff, isFinite_eq]
  simp only [validSigma, lt, hnan, Bool.and_eq_true, decide_eq_true_eq]
  tauto

end Sys2Proof.Machine

namespace Sys2Proof.F64

/-! ### Integers as binary64 values -/

theorem bitsMag_lt_topBit {b : Nat} (h : b < infBits) : bitsMag b < 2 ^ 2 ^ 13 := by
  refine (bitsMag_strictMono h).trans ?_
  rw [bitsMag_infBits]
  gcongr <;> decide

/-- A finite value is rounded to itself. -/
theorem roundRat_bitsMag {b : Nat} (h : b < infBits) : roundRat (bitsMag b) 1 = b := by
  obtain ⟨c, hc, hround⟩ := roundRat_spec (num := bitsMag b) one_pos (by rw [Nat.div_one]; exact bitsMag_lt_topBit h)
  rw [Nat.cast_one, div_one] at hround
  rw [hc, hround.unique (roundsToBits_bitsMag b), min_eq_left h.le]

/-- Every integer of at most 53 bits is a finite binary64 value. -/
theorem exists_bitsMag_integer {z : Nat} (h : z ≤ 2 ^ 53) : ∃ b, b < infBits ∧ bitsMag b = z * unit := by
  obtain ⟨b, hb⟩ := exists_bitsMag 1074 h
  refine ⟨b, bitsMag_strictMono.lt_iff_lt.1 ?_, hb⟩
  calc bitsMag b
    _ = z * 2 ^ 1074 := hb
    _ ≤ 2 ^ 53 * 2 ^ 1074 := Nat.mul_le_mul_right _ h
    _ = 2 ^ (53 + 1074) := (pow_add ..).symm
    _ < 2 ^ 2098 := by gcongr <;> decide
    _ = bitsMag infBits := bitsMag_infBits.symm

/-- From `2^53` on every value is an integer. -/
theorem unit_dvd_mag {a : F64} (h : 2 ^ 53 * unit ≤ a.mag) : unit ∣ a.mag := by
  rw [mag_eq_bitsMag] at h ⊢
  obtain ⟨k, m, hgrid, hm, hb⟩ := exists_grid (a.toNat % 2 ^ 63)
  rw [hb, bitsMag_grid hgrid hm.le] at h ⊢
  have hk : 1074 ≤ k := by
    by_contra hk
    have hmono (n : Nat) (h : k ≤ n) : 2 ^ k ≤ 2 ^ n := Nat.pow_le_pow_right (by decide) h
    have hpow : 2 ^ k ≤ unit := hmono 1074 (not_le.1 hk).le
    have hlt : m * 2 ^ k < 2 ^ 53 * unit :=
      lt_of_lt_of_le (Nat.mul_lt_mul_of_pos_right hm (Nat.two_pow_pos k)) (Nat.mul_le_mul_left _ hpow)
    exact absurd h hlt.not_ge
  exact dvd_mul_of_dvd_right (pow_dvd_pow 2 hk) m

/-- The magnitude as an integer, a fraction dropped or counted as one more. -/
def integerMag (up : Bool) (a : F64) : Nat :=
  if up && a.mag % unit != 0 then a.mag / unit + 1 else a.mag / unit

/-- Of a finite value it is a finite value again: the value's own magnitude, or an integer of at most 53 bits. -/
theorem exists_bitsMag_integerMag {a : F64} (ha : a.isFinite = true) (up : Bool) :
    ∃ b, b < infBits ∧ bitsMag b = integerMag up a * unit := by
  by_cases hdvd : unit ∣ a.mag
  · refine ⟨a.toNat % 2 ^ 63, (isFinite_iff a).1 ha, ?_⟩
    rw [integerMag, if_neg (by simp [Nat.mod_eq_zero_of_dvd hdvd]), ← mag_eq_bitsMag, Nat.div_mul_cancel hdvd]
  · have hlt : a.mag / unit < 2 ^ 53 :=
      Nat.div_lt_of_lt_mul (by rw [mul_comm]; exact not_le.1 fun h => hdvd (unit_dvd_mag h))
    refine exists_bitsMag_integer ?_
    unfold integerMag
    split <;> omega

/-- The rounding that `fceil` and `ffloor` share. -/
def integral (up : Bool) (a : F64) : F64 := ofSignBits a.sign (roundRat (integerMag up a * unit) 1)

theorem ceil_of_isFinite (nan : F64) {a : F64} (h : a.isFinite = true) : ceil nan a = integral (!a.sign) a := by
  rw [ceil, isNaN_of_isFinite h, isInf_of_isFinite h]
  rfl

theorem floor_of_isFinite (nan : F64) {a : F64} (h : a.isFinite = true) : floor nan a = integral a.sign a := by
  rw [floor, isNaN_of_isFinite h, isInf_of_isFinite h]
  rfl

theorem isFinite_integral (up : Bool) {a : F64} (h : a.isFinite = true) : (integral up a).isFinite = true := by
  obtain ⟨b, hb, hmag⟩ := exists_bitsMag_integerMag h up
  rw [integral, ← hmag, roundRat_bitsMag hb]
  exact isFinite_ofSignBits _ hb

theorem integral_eq_self (up : Bool) {a : F64} (h : a.isFinite = true) (hdvd : unit ∣ a.mag) : integral up a = a := by
  rw [integral, integerMag, if_neg (by simp [Nat.mod_eq_zero_of_dvd hdvd]), Nat.div_mul_cancel hdvd, mag_eq_bitsMag,
    roundRat_bitsMag ((isFinite_iff a).1 h), ofSignBits_sign_mod]

end Sys2Proof.F64

namespace Sys2Proof.Machine
open F64

theorem toRat_eq_mag (a : F64) :
    toRat a = if a.sign then -((a.mag : ℚ) / (unit : Nat)) else (a.mag : ℚ) / (unit : Nat) := by
  have hu : ((unit : Nat) : ℚ) = 2 ^ 1074 := by rw [unit, Nat.cast_pow, Nat.cast_ofNat]
  rw [toRat, signedMag, hu]
  cases a.sign
  · rw [if_neg Bool.false_ne_true, if_neg Bool.false_ne_true, Int.cast_natCast]
  · rw [if_pos rfl, if_pos rfl, Int.cast_neg, Int.cast_natCast, neg_div]

theorem toRat_ofSignBits_integer (neg : Bool) {b z : Nat} (hb : b < infBits) (h : bitsMag b = z * unit) :
    toRat (ofSignBits neg b) = if neg then -(z : ℚ) else z := by
  have hlt : b < 2 ^ 63 := hb.trans (by decide)
  have hu : ((unit : Nat) : ℚ) ≠ 0 := by exact_mod_cast natUnit_pos.ne'
  rw [toRat_eq_mag, sign_ofSignBits neg hlt, mag_ofSignBits neg hlt, h, Nat.cast_mul, mul_div_cancel_right₀ _ hu]

theorem floor_mag (a : F64) : ⌊(a.mag : ℚ) / (unit : Nat)⌋ = (integerMag false a : Int) :=
  Rat.floor_natCast_div_natCast a.mag unit

theorem ceil_mag (a : F64) : ⌈(a.mag : ℚ) / (unit : Nat)⌉ = (integerMag true a : Int) := by
  have hu : (0 : ℚ) < (unit : Nat) := by exact_mod_cast natUnit_pos
  have hdiv := Nat.div_add_mod' a.mag unit
  have hmod := Nat.mod_lt a.mag natUnit_pos
  rw [Int.ceil_eq_iff, lt_div_iff₀ hu, div_le_iff₀ hu, Int.cast_natCast, sub_mul, one_mul, sub_lt_iff_lt_add,
    integerMag]
  generalize a.mag / unit = q at *
  generalize a.mag % unit = r at *
  generalize unit = u at *
  norm_cast
  rw [← hdiv]
  by_cases hr : r = 0
  · simp [hr]
    omega
  · rw [if_pos (by simpa using hr), add_mul]
    omega

theorem unit_dvd_mag_of_integer {a : F64} {z : Int} (h : toRat a = z) : unit ∣ a.mag := by
  have hu := unit_pos
  have habs := abs_toRat a
  rw [h, Rat.cast_intCast, ← Int.cast_abs, Int.abs_eq_natAbs, Int.cast_natCast, eq_div_iff hu.ne'] at habs
  exact ⟨z.natAbs, by rw [mul_comm]; exact_mod_cast habs.symm⟩

theorem toRat_integral (up : Bool) {a : F64} (h : a.isFinite = true) :
    toRat (integral up a) = if a.sign then -(integerMag up a : ℚ) else integerMag up a := by
  obtain ⟨b, hb, hmag⟩ := exists_bitsMag_integerMag h up
  rw [integral, ← hmag, roundRat_bitsMag hb, toRat_ofSignBits_integer _ hb hmag]

theorem toRat_ceil (nan : F64) {a : F64} (h : a.isFinite = true) : toRat (ceil nan a) = ⌈toRat a⌉ := by
  rw [ceil_of_isFinite nan h, toRat_integral _ h, toRat_eq_mag]
  cases a.sign
  · rw [if_neg Bool.false_ne_true, if_neg Bool.false_ne_true, ceil_mag, Int.cast_natCast]
    rfl
  · rw [if_pos rfl, if_pos rfl, Int.ceil_neg, floor_mag, Int.cast_neg, Int.cast_natCast]
    rfl

theorem toRat_floor (nan : F64) {a : F64} (h : a.isFinite = true) : toRat (floor nan a) = ⌊toRat a⌋ := by
  rw [floor_of_isFinite nan h, toRat_integral _ h, toRat_eq_mag]
  cases a.sign
  · rw [if_neg Bool.false_ne_true, if_neg Bool.false_ne_true, floor_mag, Int.cast_natCast]
  · rw [if_pos rfl, if_pos rfl, Int.floor_neg, ceil_mag, Int.cast_neg, Int.cast_natCast]

/-- `of_int` is exact where the spec defines it (R115). -/
theorem ofInt_exact {z : Int} (h : |z| < 2 ^ 53) : (ofInt z).isFinite = true ∧ toRat (ofInt z) = z := by
  have hz : z.natAbs < 2 ^ 53 := by
    rw [Int.abs_eq_natAbs] at h
    exact_mod_cast h
  obtain ⟨b, hb, hmag⟩ := exists_bitsMag_integer hz.le
  rw [ofInt_of_lt hz, ← hmag, roundRat_bitsMag hb, toRat_ofSignBits_integer _ hb hmag]
  refine ⟨isFinite_ofSignBits _ hb, ?_⟩
  rcases lt_or_ge z 0 with hneg | hneg
  · rw [if_pos (decide_eq_true hneg), ← Int.cast_natCast, ← Int.cast_neg, Int.ofNat_natAbs_of_nonpos hneg.le, neg_neg]
  · rw [if_neg (by simpa using hneg), ← Int.cast_natCast, Int.natAbs_of_nonneg hneg]

/-- Settles O54: both answers of a finite value are the shared integer rounding, up or down by the sign. -/
theorem ceilFloorAndOfIntAreExact : Obligations.CeilFloorAndOfIntAreExact := by
  refine ⟨fun d a ha => ?_, fun d a ha => ?_, fun d a ha => ?_, fun z hz => ofInt_exact hz, fun a z _ hz => ?_⟩
  · have hceil : (num d).fceil a = _ := ceil_of_isFinite (producedNaN d .ceil a a) ha
    have hfloor : (num d).ffloor a = _ := floor_of_isFinite (producedNaN d .floor a a) ha
    refine ⟨?_, toRat_ceil _ ha, ?_, toRat_floor _ ha, fun ⟨z, hz⟩ => ?_⟩
    · rw [hceil]
      exact isFinite_integral _ ha
    · rw [hfloor]
      exact isFinite_integral _ ha
    · rw [hceil, hfloor]
      have hdvd := unit_dvd_mag_of_integer hz
      exact ⟨integral_eq_self _ ha hdvd, integral_eq_self _ ha hdvd⟩
  · simp [num, ceil, floor, ha, isNaN_of_isInf ha]
  · simp [num, ceil, floor, ha, isNaN_producedNaN]
  · rw [← towardZero_toRat, hz, towardZero_intCast]

end Sys2Proof.Machine

namespace Sys2Proof.Machine
open F64

/-! ### The window of a blur fits the kernel -/

theorem eq_inf_of_isInf {a : F64} (h : a.isInf = true) : a = inf a.sign := by
  obtain ⟨he, hf⟩ : a.expField = 2047 ∧ a.fracField = 0 := by simpa [isInf] using h
  have hn := toNat_eq_fields a
  rw [he, hf] at hn
  apply BitVec.eq_of_toNat_eq
  rw [hn, inf, toNat_ofSignBits _ (by decide), infBits, add_zero]

theorem toRat_one : toRat F64.one = 1 := by
  have h := toRat_of_signedMag (a := F64.one) (z := 1) (by decide +kernel)
  rwa [Int.cast_one] at h

section
variable {v : ℝ} {r : F64}

/-- Rounding does not go below a finite value that the number is not below. -/
theorem RoundsTo.le_toRat (h : RoundsTo v r) (hr : r.isFinite = true) {z : F64} (hz : z.isFinite = true)
    (hzv : (toRat z : ℝ) ≤ v) : toRat z ≤ toRat r := by
  by_contra hlt
  have hlt : (toRat r : ℝ) < toRat z := by exact_mod_cast not_le.1 hlt
  obtain ⟨-, hnear, -⟩ := h
  have habs := (hnear hr z hz).1
  rw [abs_of_neg (by linarith), abs_of_nonpos (by linarith)] at habs
  linarith

/-- A number that is not negative and has no finite rounding is rounded to the positive infinity. -/
theorem RoundsTo.eq_inf (h : RoundsTo v r) (hr : r.isFinite = false) (hv : 0 ≤ v) : r = inf false := by
  obtain ⟨-, -, hinf⟩ := h
  obtain ⟨hi, hs⟩ := hinf hr
  have hsign : r.sign = false := by
    rw [← Bool.not_eq_true, hs]
    exact hv.not_gt
  rw [eq_inf_of_isInf hi, hsign]

end

theorem le_of_toRat {a b : F64} (ha : a.isFinite = true) (hb : b.isFinite = true) (h : toRat a ≤ toRat b) :
    F64.le a b = true := by
  simp [F64.le, isNaN_of_isFinite ha, isNaN_of_isFinite hb, (orderKey_le_iff a b).2 h]

/-- Four times a positive value is a value, up to the greatest one. -/
theorem exists_four_mul {s : F64} (hs : s.sign = false) (h : 4 * (toRat s : ℝ) < 2 ^ 1024) :
    ∃ z : F64, z.isFinite = true ∧ (toRat z : ℝ) = 4 * toRat s := by
  obtain ⟨k, m, hgrid, hm, hb⟩ := exists_grid (s.toNat % 2 ^ 63)
  obtain ⟨b, hb'⟩ := exists_bitsMag (k + 2) hm.le
  have hfour : bitsMag b = 4 * s.mag := by
    rw [hb', mag_eq_bitsMag, hb, bitsMag_grid hgrid hm.le]
    ring
  have hlt : b < infBits := by
    rw [← bitsMag_strictMono.lt_iff_lt, hfour]
    rw [toRat_of_not_sign hs, ← mul_div_assoc, div_lt_iff₀ unit_pos, ← bitsMag_infBits_cast] at h
    exact_mod_cast h
  refine ⟨ofSignBits false b, isFinite_ofSignBits _ hlt, ?_⟩
  rw [toRat_ofSignBits_false (hlt.trans (by decide)), toRat_of_not_sign hs, hfour, Nat.cast_mul, Nat.cast_ofNat,
    mul_div_assoc]

/-- Five times a positive value, rounded, is not below four times the value, which needs no rounding. -/
theorem four_mul_le_of_roundsTo {s p : F64} (h0 : 0 < toRat s) (hp : RoundsTo (5 * (toRat s : ℝ)) p)
    (hpf : p.isFinite = true) : 4 * toRat s ≤ toRat p := by
  have h0' : (0 : ℝ) < toRat s := by exact_mod_cast h0
  have hlt : 4 * (toRat s : ℝ) < 2 ^ 1024 := by
    have habs := hp.1.1 hpf
    rw [abs_of_pos (by linarith)] at habs
    exact lt_of_le_of_lt (by linarith) (habs.trans (sub_lt_self _ (by positivity)))
  obtain ⟨z, hz, hz4⟩ := exists_four_mul (sign_eq_false_of_pos h0) hlt
  have hzp := hp.le_toRat hpf hz (by linarith)
  have hz4 : toRat z = 4 * toRat s := by exact_mod_cast hz4
  rwa [hz4] at hzp

theorem halfLengthF_eq (d : Nat) (s : F64) :
    halfLengthF (num d) s =
      (num d).fceil ((num d).fadd ((num d).fmul 0x4014000000000000#64 s) 0x3FF0000000000000#64) := by
  have h5 : F64.ofInt 5 = 0x4014000000000000#64 := by decide +kernel
  have h1 : F64.ofInt 1 = 0x3FF0000000000000#64 := by decide +kernel
  rw [← h5, ← h1]
  rfl

theorem truncInt_of_toRat {a : F64} {z : Int} (h : toRat a = z) : a.truncInt = z := by
  rw [← towardZero_toRat, h, towardZero_intCast]

theorem blurRadius_eq (d : Nat) {s : F64} (hs : s.isFinite = true) : blurRadius (num d) s = 3 * ⌊toRat s⌋.toNat :=
  congrArg (fun z => 3 * Int.toNat z) (truncInt_of_toRat (toRat_floor (producedNaN d .floor s s) hs))

/-- `hf` is the ceiling of the positive infinity, or of a finite value that is at least 1 and at least four times
sigma. -/
theorem halfLengthF_cases (d : Nat) {s : F64} (hs : s.isFinite = true) (h0 : 0 < toRat s) :
    ∃ q : F64, halfLengthF (num d) s = (num d).fceil q ∧
      (q = inf false ∨ q.isFinite = true ∧ 1 ≤ toRat q ∧ 4 * toRat s ≤ toRat q) := by
  refine ⟨(num d).fadd ((num d).fmul 0x4014000000000000#64 s) F64.one, halfLengthF_eq d s, ?_⟩
  have h0' : (0 : ℝ) < toRat s := by exact_mod_cast h0
  have h5 : toRat 0x4014000000000000#64 = 5 := by
    have h := toRat_of_signedMag (a := 0x4014000000000000#64) (z := 5) (by decide +kernel)
    exact_mod_cast h
  have hp := multiplicationIsCorrectlyRounded d 0x4014000000000000#64 s (by decide) hs
  rw [h5, Rat.cast_ofNat] at hp
  generalize (num d).fmul 0x4014000000000000#64 s = p at *
  cases hpf : p.isFinite
  · left
    rw [hp.eq_inf hpf (by linarith)]
    rfl
  · have hone : F64.one.isFinite = true := by decide
    obtain ⟨hq, -⟩ := additionIsCorrectlyRounded d p F64.one hpf hone
    rw [toRat_one, Rat.cast_one] at hq
    have hp0 : (0 : ℝ) ≤ toRat p := by
      have h4 : (4 * toRat s : ℝ) ≤ toRat p := by exact_mod_cast four_mul_le_of_roundsTo h0 hp hpf
      linarith
    generalize (num d).fadd p F64.one = q at *
    cases hqf : q.isFinite
    · exact .inl (hq.eq_inf hqf (by linarith))
    · refine .inr ⟨rfl, ?_, ?_⟩
      · rw [← toRat_one]
        refine hq.le_toRat hqf hone ?_
        rw [toRat_one, Rat.cast_one]
        linarith
      · exact (four_mul_le_of_roundsTo h0 hp hpf).trans (hq.le_toRat hqf hpf (by linarith))

/-- Settles O56: `hf` is a ceiling of at least 1, and of at least four times sigma. -/
theorem blurWindowFitsTheKernel : Obligations.BlurWindowFitsTheKernel := by
  intro d s
  refine ⟨halfLengthF_eq d s, fun hv => ?_⟩
  obtain ⟨hs, h0⟩ := (sigmaTestAcceptsPositiveFiniteValues s).1 hv
  obtain ⟨q, heq, rfl | ⟨hq, h1, h4⟩⟩ := halfLengthF_cases d hs h0
  · have hf : halfLengthF (num d) s = inf false := heq.trans rfl
    rw [hf, blurRadius_eq d hs]
    exact ⟨by decide, rfl, fun h => absurd h (by decide)⟩
  · obtain ⟨hfin, hceil, -⟩ := ceilFloorAndOfIntAreExact.1 d q hq
    rw [blurRadius_eq d hs, halfLength, toNat, heq, truncInt_of_toRat hceil, hceil]
    have hone : 1 ≤ ⌈toRat q⌉ := Int.one_le_ceil_iff.2 (by linarith)
    refine ⟨le_of_toRat (a := F64.one) (by decide) hfin ?_, rfl, fun _ => ⟨?_, ?_⟩⟩
    · rw [toRat_one, hceil]
      exact_mod_cast hone
    · exact_mod_cast (Int.toNat_of_nonneg (by omega)).symm
    · have hfour : 4 * ⌊toRat s⌋ ≤ ⌈toRat q⌉ := by
        have hfloor := Int.floor_le (toRat s)
        have hle := Int.le_ceil (toRat q)
        have : (4 * ⌊toRat s⌋ : ℚ) ≤ ⌈toRat q⌉ := by linarith
        exact_mod_cast this
      omega

end Sys2Proof.Machine

namespace Sys2Proof.Machine
open F64

/-! ### The fixed-point exponential: order and size -/

theorem expScale_pos : 0 < expScale := by
  rw [expScale]
  positivity

/-- The scale leaves far more than the bits the bounds below need. -/
theorem two_pow_le_expScale : 2 ^ 100 ≤ expScale := by
  rw [expScale]
  gcongr <;> decide

/-- `expSeries` at any scale: with a variable in its place nothing tries to count up to `2^320`. -/
def seriesAt (scale c r : Nat) : Nat → Nat → Nat → Nat → Nat
  | 0, _, _, sum => sum
  | fuel + 1, n, term, sum =>
    let next := term * r / (scale * (n + 1)) + c
    seriesAt scale c r fuel (n + 1) next (sum + next)

theorem expSeries_eq_seriesAt : expSeries = seriesAt expScale := by
  delta expSeries seriesAt
  rfl

theorem seriesAt_mono (scale : Nat) {c c' r r' : Nat} (hc : c ≤ c') (hr : r ≤ r') (fuel : Nat) :
    ∀ {n t t' s s' : Nat}, t ≤ t' → s ≤ s' → seriesAt scale c r fuel n t s ≤ seriesAt scale c' r' fuel n t' s' := by
  induction fuel with
  | zero => exact fun _ hs => hs
  | succ fuel ih =>
    intro n t t' s s' ht hs
    have hnext : t * r / (scale * (n + 1)) + c ≤ t' * r' / (scale * (n + 1)) + c' :=
      Nat.add_le_add (Nat.div_le_div_right (Nat.mul_le_mul ht hr)) hc
    exact ih hnext (Nat.add_le_add hs hnext)

theorem le_seriesAt (scale c r fuel : Nat) : ∀ n t s : Nat, s ≤ seriesAt scale c r fuel n t s := by
  induction fuel with
  | zero => exact fun _ _ _ => le_rfl
  | succ fuel ih => exact fun _ _ _ => (Nat.le_add_right _ _).trans (ih _ _ _)

/-- The second term of the series is its argument. -/
theorem add_le_seriesAt {scale : Nat} (h : 0 < scale) (r fuel : Nat) :
    scale + r ≤ seriesAt scale 0 r (fuel + 1) 0 scale scale := by
  have hterm : scale * r / (scale * (0 + 1)) + 0 = r := by
    rw [add_zero, zero_add, mul_one, Nat.mul_div_cancel_left _ h]
  rw [seriesAt, hterm]
  exact le_seriesAt ..

theorem squarings_mono {c c' : Nat} (hc : c ≤ c') (k : Nat) :
    ∀ {x x' : Nat}, x ≤ x' → squarings c k x ≤ squarings c' k x' := by
  induction k with
  | zero => exact fun hx => hx
  | succ k ih => exact fun hx => ih (Nat.add_le_add (Nat.div_le_div_right (Nat.mul_le_mul hx hx)) hc)

theorem le_square {x : Nat} (hx : expScale ≤ x) : x ≤ x * x / expScale :=
  (Nat.le_div_iff_mul_le expScale_pos).2 (Nat.mul_le_mul_left x hx)

/-- A number of at least 1 does not shrink when it is squared. -/
theorem le_squarings (c k : Nat) : ∀ {x : Nat}, expScale ≤ x → x ≤ squarings c k x := by
  induction k with
  | zero => exact fun _ => le_rfl
  | succ k ih =>
    intro x hx
    have hsq : x ≤ x * x / expScale + c := (le_square hx).trans (Nat.le_add_right _ _)
    exact hsq.trans (ih (hx.trans hsq))

theorem expLower_eq (r : Nat) : expLower r = squarings 0 20 (seriesAt expScale 0 r 30 0 expScale expScale) := by
  rw [expLower, expSeries_eq_seriesAt]

theorem expUpper_eq (r : Nat) : expUpper r = squarings 1 20 (seriesAt expScale 1 r 30 0 expScale expScale + 1) := by
  rw [expUpper, expSeries_eq_seriesAt]

theorem expLower_mono {r r' : Nat} (h : r ≤ r') : expLower r ≤ expLower r' := by
  rw [expLower_eq, expLower_eq]
  exact squarings_mono le_rfl 20 (seriesAt_mono _ le_rfl h 30 le_rfl le_rfl)

theorem expUpper_mono {r r' : Nat} (h : r ≤ r') : expUpper r ≤ expUpper r' := by
  rw [expUpper_eq, expUpper_eq]
  exact squarings_mono le_rfl 20 (Nat.succ_le_succ (seriesAt_mono _ le_rfl h 30 le_rfl le_rfl))

theorem expLower_le_expUpper {r r' : Nat} (h : r ≤ r') : expLower r ≤ expUpper r' := by
  rw [expLower_eq, expUpper_eq]
  exact squarings_mono zero_le_one 20 ((seriesAt_mono _ zero_le_one h 30 le_rfl le_rfl).trans (Nat.le_succ _))

/-- Above 0 the lower bound is above 1. -/
theorem expScale_lt_expLower {r : Nat} (h : 0 < r) : expScale < expLower r := by
  rw [expLower_eq]
  have hseries := add_le_seriesAt expScale_pos r 29
  exact (lt_of_lt_of_le (Nat.lt_add_of_pos_right h) hseries).trans_le
    (le_squarings 0 20 ((Nat.le_add_right _ _).trans hseries))

theorem expScale_lt_expUpper (r : Nat) : expScale < expUpper r := by
  rw [expUpper_eq]
  have hseries := le_seriesAt expScale 1 r 30 0 expScale expScale
  exact (Nat.lt_succ_of_le hseries).trans_le (le_squarings 1 20 (hseries.trans (Nat.le_succ _)))

/-! ### The two bounds are close -/

/-- The terms of the two series differ by at most 3 each. -/
theorem seriesAt_close {scale r : Nat} (hr : 3 * (r + 1) ≤ scale) (fuel : Nat) :
    ∀ {n t t' s s' : Nat}, t ≤ scale → t' ≤ t + 3 →
      ∀ d, s' ≤ s + d → seriesAt scale 1 (r + 1) fuel n t' s' ≤ seriesAt scale 0 r fuel n t s + (d + 3 * fuel) := by
  induction fuel with
  | zero => exact fun _ _ _ hs => hs
  | succ fuel ih =>
    intro n t t' s s' ht ht' d hs
    have hden : 0 < scale * (n + 1) := Nat.mul_pos (by omega) n.succ_pos
    have hgrow : t' * (r + 1) ≤ t * r + 2 * (scale * (n + 1)) := by
      calc t' * (r + 1)
        _ ≤ (t + 3) * (r + 1) := Nat.mul_le_mul_right _ ht'
        _ = t * r + (t + 3 * (r + 1)) := by ring
        _ ≤ t * r + 2 * scale := by omega
        _ ≤ t * r + 2 * (scale * (n + 1)) := by nlinarith
    have hnext : t' * (r + 1) / (scale * (n + 1)) + 1 ≤ t * r / (scale * (n + 1)) + 0 + 3 := by
      have h := Nat.div_le_div_right (c := scale * (n + 1)) hgrow
      rw [Nat.add_mul_div_right _ _ hden] at h
      omega
    have hterm : t * r / (scale * (n + 1)) + 0 ≤ scale := by
      refine Nat.div_le_of_le_mul ?_
      calc t * r
        _ ≤ scale * scale := Nat.mul_le_mul ht (by omega)
        _ ≤ scale * (n + 1) * scale := by nlinarith
    have h : seriesAt scale 1 (r + 1) (fuel + 1) n t' s' ≤ seriesAt scale 0 r (fuel + 1) n t s + (d + 3 + 3 * fuel) :=
      ih hterm hnext (d + 3) (by omega)
    omega

/-- One squaring: the distance at most doubles and a little more, which covers the rounding. -/
theorem square_close {x x' : Nat} {δ : ℝ} (hx : expScale ≤ x) (hxx : (x' : ℝ) ≤ x * (1 + δ)) (hδ : 2 ≤ expScale * δ)
    (hδ' : δ ≤ 1 / 4) :
    ((x' * x' / expScale + 1 : Nat) : ℝ) ≤ ((x * x / expScale + 0 : Nat) : ℝ) * (1 + 4 * δ) := by
  have hpos := expScale_pos
  have hX : expScale ≤ x * x / expScale := hx.trans (le_square hx)
  have hlo : x' * x' / expScale * expScale ≤ x' * x' := Nat.div_mul_le_self _ _
  have hhi : x * x ≤ (x * x / expScale + 1) * expScale := by
    rw [mul_comm (_ + 1)]
    exact (Nat.lt_mul_div_succ _ hpos).le
  rw [add_zero]
  generalize x * x / expScale = X at *
  generalize x' * x' / expScale = X' at *
  generalize expScale = S at *
  rify at hx hX hlo hhi hpos ⊢
  have hδ0 : 0 < δ := by
    by_contra h
    nlinarith
  have hsq : (x' : ℝ) * x' ≤ x * x * (1 + δ) ^ 2 := by
    calc (x' : ℝ) * x'
      _ ≤ (x * (1 + δ)) * (x * (1 + δ)) := mul_le_mul hxx hxx (Nat.cast_nonneg _) (by positivity)
      _ = x * x * (1 + δ) ^ 2 := by ring
  have hbound : (X' : ℝ) ≤ (X + 1) * (1 + δ) ^ 2 := by
    refine le_of_mul_le_mul_right ?_ hpos
    calc (X' : ℝ) * S
      _ ≤ x * x * (1 + δ) ^ 2 := hlo.trans hsq
      _ ≤ (X + 1) * S * (1 + δ) ^ 2 := mul_le_mul_of_nonneg_right hhi (by positivity)
      _ = (X + 1) * (1 + δ) ^ 2 * S := by ring
  have hXδ : 2 ≤ X * δ := hδ.trans (mul_le_mul_of_nonneg_right hX hδ0.le)
  nlinarith

/-- A relative distance between two numbers grows at most fourfold in a squaring, for the roundings are far smaller. -/
theorem squarings_close (k : Nat) : ∀ {x x' : Nat} {δ : ℝ}, expScale ≤ x → (x' : ℝ) ≤ x * (1 + δ) →
    2 ≤ expScale * δ → 4 ^ k * δ ≤ 1 → (squarings 1 k x' : ℝ) ≤ squarings 0 k x * (1 + 4 ^ k * δ) := by
  induction k with
  | zero =>
    intro x x' δ _ hxx _ _
    rwa [pow_zero, one_mul]
  | succ k ih =>
    intro x x' δ hx hxx hδ hk
    have hfour : 4 ^ (k + 1) * δ = 4 ^ k * (4 * δ) := by ring
    have hδ0 : 0 < δ := by
      have hpos : (0 : ℝ) ≤ expScale := Nat.cast_nonneg _
      by_contra h
      nlinarith
    have hone : (1 : ℝ) ≤ 4 ^ k := one_le_pow₀ (by norm_num)
    have hδ' : δ ≤ 1 / 4 := by nlinarith
    rw [hfour] at hk ⊢
    refine ih ?_ (square_close hx hxx hδ hδ') (by linarith) hk
    exact (hx.trans (le_square hx)).trans (Nat.le_add_right _ _)

/-- The two bounds differ by less than a half of the last place of a 53-bit number. -/
theorem expUpper_le_expLower_mul {r : Nat} (hr : 3 * (r + 1) ≤ expScale) :
    2 ^ 53 * expUpper (r + 1) ≤ (2 ^ 53 + 1) * expLower r := by
  rw [expLower_eq, expUpper_eq]
  have hpos : (0 : ℝ) < expScale := by exact_mod_cast expScale_pos
  have hbig : (2 ^ 100 : ℝ) ≤ expScale := by exact_mod_cast two_pow_le_expScale
  have hlow : expScale ≤ seriesAt expScale 0 r 30 0 expScale expScale := le_seriesAt ..
  have hclose := seriesAt_close hr 30 (n := 0) (t := expScale) (t' := expScale) (s := expScale) (s' := expScale)
    le_rfl (Nat.le_add_right _ _) 0 (Nat.le_add_right _ _)
  generalize seriesAt expScale 0 r 30 0 expScale expScale = L at *
  generalize seriesAt expScale 1 (r + 1) 30 0 expScale expScale = U at *
  have hLU : ((U + 1 : Nat) : ℝ) ≤ L * (1 + 91 / expScale) := by
    have hL : (expScale : ℝ) ≤ L := by exact_mod_cast hlow
    have hU : ((U + 1 : Nat) : ℝ) ≤ L + 91 := by exact_mod_cast Nat.succ_le_succ hclose
    have h91 : (91 : ℝ) ≤ L * (91 / expScale) := by
      rw [mul_div_assoc', le_div_iff₀ hpos]
      linarith
    linarith
  have hsmall : (4 : ℝ) ^ 20 * (91 / expScale) ≤ 1 / 2 ^ 53 := by
    rw [mul_div_assoc', div_le_div_iff₀ hpos (by positivity)]
    exact le_trans (by norm_num) (hbig.trans_eq (one_mul _).symm)
  have h2 : (2 : ℝ) ≤ expScale * (91 / expScale) := by
    rw [mul_div_cancel₀ _ hpos.ne']
    norm_num
  have hsq := squarings_close 20 hlow hLU h2 (hsmall.trans (by norm_num))
  generalize squarings 1 20 (U + 1) = U' at *
  generalize squarings 0 20 L = L' at *
  have hle : (U' : ℝ) ≤ L' * (1 + 1 / 2 ^ 53) :=
    hsq.trans (mul_le_mul_of_nonneg_left (by linarith) (Nat.cast_nonneg _))
  have hreal : (2 ^ 53 * U' : ℝ) ≤ (2 ^ 53 + 1) * L' := by linarith
  exact_mod_cast hreal

/-! ### The two bounds hold the real exponential -/

section
open Finset

theorem cast_div_lt_succ (a b : Nat) : (a : ℝ) / b < (a / b : Nat) + 1 := by
  rw [← Nat.floor_div_eq_div (K := ℝ)]
  exact Nat.lt_floor_add_one _

/-- The next term of the scaled exponential series of `r / scale`. -/
theorem scaledTerm_succ {scale : Nat} (h : 0 < scale) (r n : Nat) :
    (scale : ℝ) * ((r / scale : ℝ) ^ n / n.factorial) * r / (scale * (n + 1) : Nat) =
      scale * ((r / scale : ℝ) ^ (n + 1) / (n + 1).factorial) := by
  have hpos : (0 : ℝ) < scale := by exact_mod_cast h
  rw [Nat.factorial_succ, pow_succ]
  push_cast
  field_simp

/-- The series with every term rounded down adds at most the real terms. -/
theorem seriesAt_zero_le {scale r : Nat} (h : 0 < scale) (fuel : Nat) : ∀ {n t s : Nat},
    (t : ℝ) ≤ scale * ((r / scale : ℝ) ^ n / n.factorial) →
    (s : ℝ) ≤ scale * ∑ i ∈ range (n + 1), (r / scale : ℝ) ^ i / i.factorial →
    (seriesAt scale 0 r fuel n t s : ℝ) ≤ scale * ∑ i ∈ range (n + 1 + fuel), (r / scale : ℝ) ^ i / i.factorial := by
  induction fuel with
  | zero => exact fun _ hs => hs
  | succ fuel ih =>
    intro n t s ht hs
    have hterm : ((t * r / (scale * (n + 1)) + 0 : Nat) : ℝ) ≤
        scale * ((r / scale : ℝ) ^ (n + 1) / (n + 1).factorial) := by
      rw [← scaledTerm_succ h, add_zero]
      refine Nat.cast_div_le.trans ?_
      rw [Nat.cast_mul t r]
      gcongr
    have hsum := add_le_add hs hterm
    rw [← mul_add, ← sum_range_succ (fun i => (r / scale : ℝ) ^ i / i.factorial), ← Nat.cast_add] at hsum
    have h := ih hterm hsum
    rwa [add_right_comm _ 1 fuel] at h

/-- The series with every term rounded up adds at least the real terms. -/
theorem le_seriesAt_one {scale r : Nat} (h : 0 < scale) (fuel : Nat) : ∀ {n t s : Nat},
    scale * ((r / scale : ℝ) ^ n / n.factorial) ≤ t →
    scale * ∑ i ∈ range (n + 1), (r / scale : ℝ) ^ i / i.factorial ≤ s →
    scale * ∑ i ∈ range (n + 1 + fuel), (r / scale : ℝ) ^ i / i.factorial ≤ seriesAt scale 1 r fuel n t s := by
  induction fuel with
  | zero => exact fun _ hs => hs
  | succ fuel ih =>
    intro n t s ht hs
    have hterm : scale * ((r / scale : ℝ) ^ (n + 1) / (n + 1).factorial) ≤
        ((t * r / (scale * (n + 1)) + 1 : Nat) : ℝ) := by
      rw [← scaledTerm_succ h, Nat.cast_succ]
      refine le_trans ?_ (cast_div_lt_succ _ _).le
      rw [Nat.cast_mul t r]
      gcongr
    have hsum := add_le_add hs hterm
    rw [← mul_add, ← sum_range_succ (fun i => (r / scale : ℝ) ^ i / i.factorial), ← Nat.cast_add] at hsum
    have h := ih hterm hsum
    rwa [add_right_comm _ 1 fuel] at h

theorem seriesAt_zero_le_exp {scale : Nat} (h : 0 < scale) (r fuel : Nat) :
    (seriesAt scale 0 r fuel 0 scale scale : ℝ) ≤ scale * Real.exp (r / scale) := by
  refine (seriesAt_zero_le h fuel (by simp) (by simp)).trans (mul_le_mul_of_nonneg_left ?_ (Nat.cast_nonneg _))
  exact Real.sum_le_exp_of_nonneg (by positivity) _

end

theorem squarings_zero_le_exp (k : Nat) : ∀ {x : Nat} {y : ℝ}, (x : ℝ) ≤ expScale * Real.exp y →
    (squarings 0 k x : ℝ) ≤ expScale * Real.exp (2 ^ k * y) := by
  induction k with
  | zero => exact fun {x y} hx => by rwa [pow_zero, one_mul]
  | succ k ih =>
    intro x y hx
    have hpos : (0 : ℝ) < expScale := by exact_mod_cast expScale_pos
    rw [pow_succ, mul_assoc, two_mul]
    refine ih (x := x * x / expScale + 0) ?_
    rw [add_zero, Real.exp_add]
    refine Nat.cast_div_le.trans ?_
    rw [div_le_iff₀ hpos, Nat.cast_mul]
    calc (x : ℝ) * x
      _ ≤ (expScale * Real.exp y) * (expScale * Real.exp y) := mul_le_mul hx hx (Nat.cast_nonneg _) (by positivity)
      _ = expScale * (Real.exp y * Real.exp y) * expScale := by ring

theorem exp_le_squarings_one (k : Nat) : ∀ {x : Nat} {y : ℝ}, expScale * Real.exp y ≤ x →
    expScale * Real.exp (2 ^ k * y) ≤ squarings 1 k x := by
  induction k with
  | zero => exact fun {x y} hx => by rwa [pow_zero, one_mul]
  | succ k ih =>
    intro x y hx
    have hpos : (0 : ℝ) < expScale := by exact_mod_cast expScale_pos
    rw [pow_succ, mul_assoc, two_mul]
    refine ih (x := x * x / expScale + 1) ?_
    rw [Real.exp_add, Nat.cast_succ]
    refine le_trans ?_ (cast_div_lt_succ _ _).le
    rw [le_div_iff₀ hpos, Nat.cast_mul]
    calc expScale * (Real.exp y * Real.exp y) * expScale
      _ = (expScale * Real.exp y) * (expScale * Real.exp y) := by ring
      _ ≤ (x : ℝ) * x := mul_le_mul hx hx (by positivity) (Nat.cast_nonneg _)

/-- For arguments up to `2^-10` the terms of the exponential series from the 31st on add up to less than one unit. -/
theorem scaled_exp_le {y : ℝ} (h0 : 0 ≤ y) (h1 : 1024 * y ≤ 1) :
    expScale * Real.exp y ≤ expScale * ∑ i ∈ Finset.range 31, y ^ i / i.factorial + 1 := by
  have hbound := Real.exp_bound' h0 (by linarith) (n := 31) (by decide)
  have hpos : (0 : ℝ) ≤ expScale := Nat.cast_nonneg _
  have hscale : (expScale : ℝ) = 1024 * 1024 ^ 31 := by
    have h1024 : (1024 : ℝ) = 2 ^ 10 := by norm_num
    rw [h1024, expScale, Nat.cast_pow, Nat.cast_ofNat, ← pow_mul, ← pow_add]
  have hrest : expScale * (y ^ 31 * ((31 : Nat) + 1) / (Nat.factorial 31 * (31 : Nat))) ≤ 1 := by
    have hpow : (1024 * y) ^ 31 ≤ 1 := pow_le_one₀ (by linarith) h1
    rw [hscale, mul_div_assoc', div_le_one (by positivity)]
    calc (1024 * 1024 ^ 31 * (y ^ 31 * ((31 : Nat) + 1)) : ℝ)
      _ = (1024 * y) ^ 31 * (1024 * 32) := by
        rw [mul_pow]
        push_cast
        ring
      _ ≤ 1 * (1024 * 32) := mul_le_mul_of_nonneg_right hpow (by norm_num)
      _ ≤ Nat.factorial 31 * (31 : Nat) := by norm_num [Nat.factorial]
  calc expScale * Real.exp y
    _ ≤ expScale * _ := mul_le_mul_of_nonneg_left hbound hpos
    _ ≤ _ := by
      rw [mul_add]
      exact add_le_add_right hrest _

/-- The lower bound is below the real exponential of its argument. -/
theorem expLower_le_exp (r : Nat) : (expLower r : ℝ) ≤ expScale * Real.exp (2 ^ 20 * (r / expScale)) := by
  rw [expLower_eq]
  exact squarings_zero_le_exp 20 (seriesAt_zero_le_exp expScale_pos r 30)

/-- The upper bound is above the real exponential of its argument. -/
theorem exp_le_expUpper {r : Nat} (h : 1024 * r ≤ expScale) :
    expScale * Real.exp (2 ^ 20 * (r / expScale)) ≤ expUpper r := by
  have hpos : (0 : ℝ) < expScale := by exact_mod_cast expScale_pos
  have hy : 1024 * ((r : ℝ) / expScale) ≤ 1 := by
    rw [← mul_div_assoc, div_le_one hpos]
    exact_mod_cast h
  have hseries := le_seriesAt_one (r := r) expScale_pos 30 (n := 0) (t := expScale) (s := expScale) (by simp) (by simp)
  rw [expUpper_eq]
  refine exp_le_squarings_one 20 ((scaled_exp_le (by positivity) hy).trans ?_)
  rw [Nat.cast_succ]
  exact add_le_add_left hseries 1

end Sys2Proof.Machine

namespace Sys2Proof.F64

theorem bitsMag_one : bitsMag one.toNat = unit := by decide +kernel

/-- Two values that differ by more than one place differ by more than one part in `2^53`. -/
theorem bitsMag_succ_gap (b : Nat) : (2 ^ 53 + 1) * bitsMag b < 2 ^ 53 * bitsMag (b + 1) := by
  obtain ⟨k, m, h, hm, rfl⟩ := exists_grid b
  rw [add_assoc, bitsMag_grid h hm.le, bitsMag_grid (h.imp_right (·.trans (Nat.le_succ m))) hm]
  have hk := Nat.mul_lt_mul_of_pos_right hm (Nat.two_pow_pos k)
  linarith

/-- The floor of a fraction below 1. -/
theorem floorRat_of_lt {num den : Nat} (h : num < unit * den) :
    floorRat num den < one.toNat ∧ bitsMag (floorRat num den) * den ≤ num ∧
      num < bitsMag (floorRat num den + 1) * den := by
  have hden : 0 < den := Nat.pos_of_ne_zero fun h0 => by simp [h0] at h
  have hsize : num / den < 2 ^ 2 ^ 13 := by
    have hlt : num / den < unit := Nat.div_lt_of_lt_mul (by rwa [mul_comm])
    exact hlt.trans (mul_one unit ▸ mul_lt_topBit unit_lt_topBit (Nat.one_lt_two_pow (by decide)))
  obtain ⟨b, hb, hlo, hhi⟩ := floorRat_spec hden hsize
  have hone : b < one.toNat := by
    rw [← bitsMag_strictMono.lt_iff_lt, bitsMag_one]
    exact lt_of_mul_lt_mul_right (hlo.trans_lt h) (Nat.zero_le den)
  have hinf : one.toNat ≤ infBits - 1 := by decide
  rw [hb, min_eq_left (hone.le.trans hinf)]
  exact ⟨hone, hlo, hhi⟩

/-- Values on both sides of two fractions that are close are neighbours or the same. -/
theorem floors_close {num den den' b b' : Nat} (hb : num < bitsMag (b + 1) * den) (hb' : bitsMag b' * den' ≤ num)
    (hclose : 2 ^ 53 * den ≤ (2 ^ 53 + 1) * den') : b' ≤ b + 1 := by
  by_contra hlt
  have hgap := bitsMag_succ_gap (b + 1)
  have hle : bitsMag (b + 1 + 1) ≤ bitsMag b' := bitsMag_strictMono.monotone (not_le.1 hlt)
  refine lt_irrefl (2 ^ 53 * num) ?_
  calc 2 ^ 53 * num
    _ < 2 ^ 53 * (bitsMag (b + 1) * den) := Nat.mul_lt_mul_of_pos_left hb (by decide)
    _ = bitsMag (b + 1) * (2 ^ 53 * den) := by ring
    _ ≤ bitsMag (b + 1) * ((2 ^ 53 + 1) * den') := Nat.mul_le_mul_left _ hclose
    _ = (2 ^ 53 + 1) * bitsMag (b + 1) * den' := by ring
    _ ≤ 2 ^ 53 * bitsMag b' * den' :=
      Nat.mul_le_mul_right _ (hgap.le.trans (Nat.mul_le_mul_left _ hle))
    _ = 2 ^ 53 * (bitsMag b' * den') := by ring
    _ ≤ 2 ^ 53 * num := Nat.mul_le_mul_left _ hb'

/-- A larger divisor has a smaller floor. -/
theorem floorRat_anti {num den den' : Nat} (h : num < unit * den) (hle : den ≤ den') :
    floorRat num den' ≤ floorRat num den := by
  obtain ⟨-, -, hhi⟩ := floorRat_of_lt h
  obtain ⟨-, hlo, -⟩ := floorRat_of_lt (h.trans_le (Nat.mul_le_mul_left unit hle))
  rw [← Nat.lt_succ_iff, ← bitsMag_strictMono.lt_iff_lt]
  exact lt_of_mul_lt_mul_right ((Nat.mul_le_mul_left _ hle).trans_lt (hlo.trans_lt hhi)) (Nat.zero_le den)

end Sys2Proof.F64

namespace Sys2Proof.Machine
open F64

/-! ### The bracket of the exponential -/

/-- The argument `r` of the fixed-point bounds for `e^y`, `y = m * 2^-1074`: `y * 2^-20` rounded down. -/
def expArg (m : Nat) : Nat := m * expScale / (unit * 2 ^ 20)

/-- The bits of the greatest values not above the two bounds of `e^-y`, for `y = m * 2^-1074 > 0`. They are the real
power's own floor, or one of them is: the lower one may be a place below it, or the upper one a place above. -/
def expFloors (m : Nat) : Nat × Nat :=
  if 746 * unit ≤ m then (0, 0)
  else if m * 2 ^ 60 < unit then (one.toNat - 1, one.toNat - 1)
  else (floorRat (expScale * unit) (expUpper (expArg m + 1)), floorRat (expScale * unit) (expLower (expArg m)))

theorem expFloors_of_ge {m : Nat} (h : 746 * unit ≤ m) : expFloors m = (0, 0) := if_pos h

theorem expFloors_of_tiny {m : Nat} (h : ¬ 746 * unit ≤ m) (h' : m * 2 ^ 60 < unit) :
    expFloors m = (one.toNat - 1, one.toNat - 1) := (if_neg h).trans (if_pos h')

theorem expFloors_of_mid {m : Nat} (h : ¬ 746 * unit ≤ m) (h' : ¬ m * 2 ^ 60 < unit) :
    expFloors m =
      (floorRat (expScale * unit) (expUpper (expArg m + 1)), floorRat (expScale * unit) (expLower (expArg m))) :=
  (if_neg h).trans (if_neg h')

section
variable {m : Nat}

theorem expArg_pos (h : ¬ m * 2 ^ 60 < unit) : 0 < expArg m := by
  refine Nat.div_pos ?_ (Nat.mul_pos natUnit_pos (by decide))
  have hbig := two_pow_le_expScale
  calc unit * 2 ^ 20
    _ ≤ m * 2 ^ 60 * 2 ^ 20 := Nat.mul_le_mul_right _ (not_lt.1 h)
    _ = m * 2 ^ 80 := by ring
    _ ≤ m * expScale := Nat.mul_le_mul_left _ ((by norm_num : 2 ^ 80 ≤ 2 ^ 100).trans hbig)

theorem expArg_small (h : ¬ 746 * unit ≤ m) : 1024 * (expArg m + 1) ≤ expScale := by
  have hbig := two_pow_le_expScale
  have hlt : expArg m * (unit * 2 ^ 20) ≤ m * expScale := Nat.div_mul_le_self _ _
  have hle : expArg m * 2 ^ 20 ≤ 746 * expScale := by
    refine Nat.le_of_mul_le_mul_right ?_ natUnit_pos
    calc expArg m * 2 ^ 20 * unit
      _ = expArg m * (unit * 2 ^ 20) := by ring
      _ ≤ m * expScale := hlt
      _ ≤ 746 * unit * expScale := Nat.mul_le_mul_right _ (not_le.1 h).le
      _ = 746 * expScale * unit := by ring
  clear h hlt
  generalize expScale = S at *
  omega

theorem expArg_mono : Monotone expArg := fun _ _ h => Nat.div_le_div_right (Nat.mul_le_mul_right _ h)

theorem expScale_mul_lt {d : Nat} (h : expScale < d) : expScale * unit < unit * d := by
  rw [mul_comm]
  exact Nat.mul_lt_mul_of_pos_left h natUnit_pos

/-- The two floors are in order and below 1. -/
theorem expFloors_le (m : Nat) : (expFloors m).1 ≤ (expFloors m).2 ∧ (expFloors m).2 < one.toNat := by
  by_cases h : 746 * unit ≤ m
  · rw [expFloors_of_ge h]
    decide
  by_cases h' : m * 2 ^ 60 < unit
  · rw [expFloors_of_tiny h h']
    decide
  · rw [expFloors_of_mid h h']
    have hlow := expScale_mul_lt (expScale_lt_expLower (expArg_pos h'))
    obtain ⟨hlt, -, -⟩ := floorRat_of_lt hlow
    exact ⟨floorRat_anti hlow (expLower_le_expUpper (Nat.le_succ _)), hlt⟩

/-- A smaller exponent's floors are not below. -/
theorem expFloors_anti {m m' : Nat} (hm : m ≤ m') :
    (expFloors m').1 ≤ (expFloors m).1 ∧ (expFloors m').2 ≤ (expFloors m).2 := by
  by_cases h' : 746 * unit ≤ m'
  · rw [expFloors_of_ge h']
    exact ⟨Nat.zero_le _, Nat.zero_le _⟩
  have h : ¬ 746 * unit ≤ m := fun h => h' (h.trans hm)
  by_cases ht : m * 2 ^ 60 < unit
  · obtain ⟨hle, hlt⟩ := expFloors_le m'
    rw [expFloors_of_tiny h ht]
    exact ⟨hle.trans (Nat.le_sub_one_of_lt hlt), Nat.le_sub_one_of_lt hlt⟩
  have ht' : ¬ m' * 2 ^ 60 < unit := fun h => ht ((Nat.mul_le_mul_right _ hm).trans_lt h)
  rw [expFloors_of_mid h ht, expFloors_of_mid h' ht']
  exact ⟨floorRat_anti (expScale_mul_lt (expScale_lt_expUpper _)) (expUpper_mono (Nat.succ_le_succ (expArg_mono hm))),
    floorRat_anti (expScale_mul_lt (expScale_lt_expLower (expArg_pos ht))) (expLower_mono (expArg_mono hm))⟩

/-- The bracket begins at the common floor, or it is the upper floor alone. -/
theorem expBracket_eq (m : Nat) :
    expBracket m =
      if (expFloors m).1 = (expFloors m).2 then ((expFloors m).1, (expFloors m).1 + 1)
      else ((expFloors m).2, (expFloors m).2) := by
  obtain ⟨hle, hlt⟩ := expFloors_le m
  by_cases h : 746 * unit ≤ m
  · rw [expFloors_of_ge h, expBracket, if_pos h]
    rfl
  by_cases h' : m * 2 ^ 60 < unit
  · rw [expFloors_of_tiny h h', expBracket, if_neg h, if_pos h']
    rfl
  · have hmin : min ((expFloors m).1 + 1) one.toNat = (expFloors m).1 + 1 := min_eq_left (hle.trans_lt hlt)
    rw [← hmin, expFloors_of_mid h h', expBracket, if_neg h, if_neg h']
    rfl

/-- From 746 on the power is below the least value: `746 > 1074 * log 2`. -/
theorem unit_mul_exp_neg_le_one (h : 746 * unit ≤ m) : (unit : Nat) * Real.exp (-(m / (unit : Nat))) ≤ 1 := by
  have hy : (746 : ℝ) ≤ m / (unit : Nat) := by
    rw [le_div_iff₀ unit_pos]
    exact_mod_cast h
  have hexp : ((unit : Nat) : ℝ) = Real.exp ((1074 : Nat) * Real.log 2) := by
    rw [unit_cast, Real.exp_nat_mul, Real.exp_log two_pos]
  have hlog := Real.log_two_lt_d9
  rw [hexp] at hy ⊢
  rw [← Real.exp_add, Real.exp_le_one_iff, Nat.cast_ofNat]
  linarith

theorem bitsMag_one_pred : 2 ^ 53 * bitsMag (one.toNat - 1) = (2 ^ 53 - 1) * unit := by decide +kernel

/-- Below `2^-60` the power is within the last place below 1. -/
theorem bitsMag_one_pred_le_exp (h : m * 2 ^ 60 < unit) :
    (bitsMag (one.toNat - 1) : ℝ) ≤ (unit : Nat) * Real.exp (-(m / (unit : Nat))) := by
  have hu := unit_pos
  have hexp : (unit : Nat) * (1 - m / (unit : Nat)) ≤ (unit : Nat) * Real.exp (-(m / (unit : Nat))) :=
    mul_le_mul_of_nonneg_left (Real.one_sub_le_exp_neg _) hu.le
  rw [mul_sub, mul_one, mul_div_cancel₀ _ hu.ne'] at hexp
  have hpred := bitsMag_one_pred
  generalize unit = u at *
  generalize bitsMag (one.toNat - 1) = b at *
  rify at h hpred
  norm_num at h hpred
  linarith

/-- In between, the argument of the bounds is below and above the exponent, and the bounds hold the power. -/
theorem expBounds_exp (h : ¬ 746 * unit ≤ m) :
    (expLower (expArg m) : ℝ) * Real.exp (-(m / (unit : Nat))) ≤ expScale ∧
      expScale ≤ expUpper (expArg m + 1) * Real.exp (-(m / (unit : Nat))) := by
  have hu := unit_pos
  have hS : (0 : ℝ) < expScale := by exact_mod_cast expScale_pos
  have hden : 0 < unit * 2 ^ 20 := Nat.mul_pos natUnit_pos (by decide)
  have hscale (r : Nat) : 2 ^ 20 * ((r : ℝ) / expScale) = r * (unit * 2 ^ 20 : Nat) / (unit : Nat) / expScale := by
    rw [Nat.cast_mul, mul_left_comm, mul_div_cancel_left₀ _ hu.ne']
    push_cast
    ring
  have hlo : 2 ^ 20 * ((expArg m : ℝ) / expScale) ≤ m / (unit : Nat) := by
    rw [hscale, div_right_comm, div_le_div_iff_of_pos_right hu, div_le_iff₀ hS]
    exact_mod_cast Nat.div_mul_le_self (m * expScale) (unit * 2 ^ 20)
  have hhi : m / (unit : Nat) ≤ 2 ^ 20 * (((expArg m + 1 : Nat) : ℝ) / expScale) := by
    rw [hscale, div_right_comm, div_le_div_iff_of_pos_right hu, le_div_iff₀ hS]
    have h := Nat.lt_mul_div_succ (m * expScale) hden
    rw [mul_comm (unit * 2 ^ 20)] at h
    exact_mod_cast h.le
  rw [Real.exp_neg, ← div_eq_mul_inv, ← div_eq_mul_inv, div_le_iff₀ (Real.exp_pos _), le_div_iff₀ (Real.exp_pos _)]
  constructor
  · exact (expLower_le_exp _).trans (mul_le_mul_of_nonneg_left (Real.exp_le_exp.2 hlo) hS.le)
  · exact (mul_le_mul_of_nonneg_left (Real.exp_le_exp.2 hhi) hS.le).trans (exp_le_expUpper (expArg_small h))

/-- The two floors around the real exponential, where both come from the fixed-point bounds. -/
theorem expFloors_exp_of_mid (h : ¬ 746 * unit ≤ m) (h' : ¬ m * 2 ^ 60 < unit) :
    (bitsMag (expFloors m).1 : ℝ) ≤ (unit : Nat) * Real.exp (-(m / (unit : Nat))) ∧
      (unit : Nat) * Real.exp (-(m / (unit : Nat))) ≤ bitsMag ((expFloors m).2 + 1) ∧
      (expFloors m).2 ≤ (expFloors m).1 + 1 := by
  rw [expFloors_of_mid h h']
  obtain ⟨hL, hU⟩ := expBounds_exp h
  have hLpos := expScale_lt_expLower (expArg_pos h')
  obtain ⟨-, hlow, hlow'⟩ := floorRat_of_lt (expScale_mul_lt (expScale_lt_expUpper (expArg m + 1)))
  obtain ⟨-, hhigh, hhigh'⟩ := floorRat_of_lt (expScale_mul_lt hLpos)
  have hclose := expUpper_le_expLower_mul (r := expArg m) (by have := expArg_small h; omega)
  have hE := Real.exp_pos (-(m / (unit : Nat)))
  generalize Real.exp (-(m / (unit : Nat))) = E at *
  generalize expUpper (expArg m + 1) = U at *
  generalize expLower (expArg m) = L at *
  have hS : (0 : ℝ) < expScale := by exact_mod_cast expScale_pos
  refine ⟨le_of_mul_le_mul_left ?_ hS, le_of_mul_le_mul_left ?_ hS, ?_⟩
  · calc (expScale : ℝ) * bitsMag (floorRat (expScale * unit) U)
      _ ≤ U * E * bitsMag (floorRat (expScale * unit) U) := mul_le_mul_of_nonneg_right hU (Nat.cast_nonneg _)
      _ = (bitsMag (floorRat (expScale * unit) U) * U : Nat) * E := by push_cast; ring
      _ ≤ (expScale * unit : Nat) * E := mul_le_mul_of_nonneg_right (Nat.cast_le.2 hlow) hE.le
      _ = expScale * ((unit : Nat) * E) := by rw [Nat.cast_mul, mul_assoc]
  · calc (expScale : ℝ) * ((unit : Nat) * E)
      _ = (expScale * unit : Nat) * E := by rw [Nat.cast_mul, mul_assoc]
      _ ≤ (bitsMag (floorRat (expScale * unit) L + 1) * L : Nat) * E :=
        mul_le_mul_of_nonneg_right (Nat.cast_le.2 hhigh'.le) hE.le
      _ = L * E * bitsMag (floorRat (expScale * unit) L + 1) := by push_cast; ring
      _ ≤ expScale * bitsMag (floorRat (expScale * unit) L + 1) := mul_le_mul_of_nonneg_right hL (Nat.cast_nonneg _)
  · exact floors_close hlow' hhigh hclose

/-- The real exponential lies from the lower floor up to the place above the upper one, and these are close. -/
theorem expFloors_exp (m : Nat) :
    (bitsMag (expFloors m).1 : ℝ) ≤ (unit : Nat) * Real.exp (-(m / (unit : Nat))) ∧
      (unit : Nat) * Real.exp (-(m / (unit : Nat))) ≤ bitsMag ((expFloors m).2 + 1) ∧
      (expFloors m).2 ≤ (expFloors m).1 + 1 := by
  have hu := unit_pos
  by_cases h : 746 * unit ≤ m
  · rw [expFloors_of_ge h]
    refine ⟨?_, ?_, by decide⟩
    · rw [bitsMag_zero, Nat.cast_zero]
      exact mul_nonneg hu.le (Real.exp_nonneg _)
    · exact (unit_mul_exp_neg_le_one h).trans_eq Nat.cast_one.symm
  by_cases h' : m * 2 ^ 60 < unit
  · rw [expFloors_of_tiny h h']
    refine ⟨bitsMag_one_pred_le_exp h', ?_, Nat.le_succ _⟩
    have hle : Real.exp (-(m / (unit : Nat))) ≤ 1 :=
      Real.exp_le_one_iff.2 (neg_nonpos.2 (div_nonneg (Nat.cast_nonneg _) hu.le))
    have hone : bitsMag (one.toNat - 1 + 1) = unit := bitsMag_one
    rw [hone]
    exact mul_le_of_le_one_right hu.le hle
  exact expFloors_exp_of_mid h h'

end

/-! ### `fexp` -/

/-- The end of a bracket: of a common floor the place above it or the floor itself, else the upper floor. -/
def pickBits (up : Bool) (low high : Nat) : Nat := if low = high then if up then low + 1 else low else high

/-- Higher floors give a higher pick, when the same floor goes up as well. -/
theorem pickBits_mono {up up' : Bool} {low low' high high' : Nat} (h : low ≤ high) (h' : low' ≤ high')
    (hlow : low ≤ low') (hhigh : high ≤ high') (hup : low = low' → up = true → up' = true) :
    pickBits up low high ≤ pickBits up' low' high' := by
  unfold pickBits
  by_cases hsame : low = low'
  · cases up
    · simp only [Bool.false_eq_true, if_false]
      split_ifs <;> omega
    · simp only [hup hsame rfl, if_true]
      split_ifs <;> omega
  · split_ifs <;> omega

theorem pickBits_le (up : Bool) (low high : Nat) : pickBits up low high ≤ high + 1 := by
  unfold pickBits
  split_ifs <;> omega

/-- Bits 62:0 of `fexp` of a finite value below zero, from the two floors. -/
def fexpBits (x : F64) : Nat :=
  if expUnderflows x.mag then 0
  else pickBits (F64.le (Config.fexpThreshold (ofSignBits false (expFloors x.mag).1)) x) (expFloors x.mag).1
    (expFloors x.mag).2

section
variable {x y : F64}

theorem fexp_of_isZero (h : x.isZero = true) : fexp x = F64.one := by simp [fexp, isNaN_of_isZero h, h]

theorem fexp_of_neg (hx : x.isFinite = true) (h0 : toRat x < 0) : fexp x = ofSignBits false (fexpBits x) := by
  simp only [fexp, isNaN_of_isFinite hx, isInf_of_isFinite hx, isZero_eq_false h0.ne, sign_eq_true_of_neg h0,
    expBracket_eq, fexpBits, pickBits, Bool.false_eq_true, if_false, Bool.not_true, Bool.false_or]
  split
  · rfl
  · split
    · rw [apply_ite (ofSignBits false)]
    · rw [ite_self]

theorem fexpBits_le_one (x : F64) : fexpBits x ≤ one.toNat := by
  obtain ⟨-, hlt⟩ := expFloors_le x.mag
  unfold fexpBits
  split
  · exact Nat.zero_le _
  · exact (pickBits_le _ _ _).trans hlt

theorem ofSignBits_false_le {b b' : Nat} (h : b ≤ b') (h' : b' < 2 ^ 63) :
    toRat (ofSignBits false b) ≤ toRat (ofSignBits false b') := by
  rw [toRat_le, signedMag_ofSignBits false (h.trans_lt h'), signedMag_ofSignBits false h',
    if_neg Bool.false_ne_true, if_neg Bool.false_ne_true]
  exact_mod_cast bitsMag_strictMono.monotone h

theorem fexp_range (hx : x.isFinite = true) (h0 : toRat x ≤ 0) :
    (fexp x).isFinite = true ∧ 0 ≤ toRat (fexp x) ∧ toRat (fexp x) ≤ 1 := by
  rcases h0.lt_or_eq with hneg | hz
  · have hb := fexpBits_le_one x
    have hone : one.toNat < infBits := by decide
    rw [fexp_of_neg hx hneg]
    refine ⟨isFinite_ofSignBits _ (hb.trans_lt hone), ?_, ?_⟩
    · have h := ofSignBits_false_le (Nat.zero_le (fexpBits x)) (hb.trans_lt (by decide))
      rwa [show ofSignBits false 0 = 0 from rfl, toRat_zero] at h
    · have h := ofSignBits_false_le hb (by decide)
      rwa [show ofSignBits false one.toNat = F64.one from rfl, toRat_one] at h
  · rw [fexp_of_isZero (isZero_iff_toRat.2 hz), toRat_one]
    exact ⟨by decide, zero_le_one, le_rfl⟩

theorem fexp_of_underflow (hx : x.isFinite = true) (h : toRat x ≤ -1250) : fexp x = 0 := by
  have hneg : toRat x < 0 := h.trans_lt (by norm_num)
  have hmag : 1250 * unit ≤ x.mag := by
    have h' : (toRat x : ℝ) ≤ -1250 := by exact_mod_cast h
    rw [toRat_of_sign (sign_eq_true_of_neg hneg), neg_le_neg_iff, le_div_iff₀ unit_pos] at h'
    exact_mod_cast h'
  rw [fexp_of_neg hx hneg, fexpBits, expUnderflows, if_pos (decide_eq_true hmag)]
  rfl

/-- What the threshold lets up at one argument it lets up at every greater one. -/
theorem le_of_le_of_toRat {t : F64} (h : F64.le t x = true) (hy : y.isFinite = true) (hxy : toRat x ≤ toRat y) :
    F64.le t y = true := by
  simp only [F64.le, Bool.and_eq_true, decide_eq_true_eq] at h ⊢
  obtain ⟨⟨ht, -⟩, hle⟩ := h
  exact ⟨⟨ht, by rw [isNaN_of_isFinite hy]; rfl⟩, hle.trans ((orderKey_le_iff x y).2 hxy)⟩

theorem mag_le_of_neg (hx : toRat x < 0) (hy : toRat y < 0) (hxy : toRat x ≤ toRat y) : y.mag ≤ x.mag := by
  rw [toRat_le, signedMag, signedMag, if_pos (sign_eq_true_of_neg hx), if_pos (sign_eq_true_of_neg hy)] at hxy
  omega

theorem fexpBits_mono (hy : y.isFinite = true) (hx0 : toRat x < 0) (hy0 : toRat y < 0) (hxy : toRat x ≤ toRat y) :
    fexpBits x ≤ fexpBits y := by
  have hmag := mag_le_of_neg hx0 hy0 hxy
  obtain ⟨hl, hh⟩ := expFloors_anti hmag
  obtain ⟨hx', -⟩ := expFloors_le x.mag
  obtain ⟨hy', -⟩ := expFloors_le y.mag
  unfold fexpBits
  by_cases hux : expUnderflows x.mag = true
  · rw [if_pos hux]
    exact Nat.zero_le _
  have huy : ¬ expUnderflows y.mag = true := by
    unfold expUnderflows at hux ⊢
    rw [decide_eq_true_eq] at hux ⊢
    exact fun h => hux (h.trans hmag)
  rw [if_neg hux, if_neg huy]
  exact pickBits_mono hx' hy' hl hh fun he h => he ▸ le_of_le_of_toRat h hy hxy

/-- The pick is one of two neighbours around the real exponential. -/
theorem exists_exp_bracket (x : F64) : ∃ n, n < one.toNat ∧
    (bitsMag n : ℝ) ≤ (unit : Nat) * Real.exp (-(x.mag / (unit : Nat))) ∧
    (unit : Nat) * Real.exp (-(x.mag / (unit : Nat))) ≤ bitsMag (n + 1) ∧ (fexpBits x = n ∨ fexpBits x = n + 1) := by
  obtain ⟨hle, hlt⟩ := expFloors_le x.mag
  obtain ⟨hlo, hhi, hclose⟩ := expFloors_exp x.mag
  unfold fexpBits
  by_cases hunder : expUnderflows x.mag = true
  · have hfloors : expFloors x.mag = (0, 0) :=
      expFloors_of_ge ((Nat.mul_le_mul_right unit (by decide)).trans (of_decide_eq_true hunder))
    rw [hfloors] at hlo hhi
    exact ⟨0, by decide, hlo, hhi, .inl (if_pos hunder)⟩
  rw [if_neg hunder]
  generalize F64.le (Config.fexpThreshold (ofSignBits false (expFloors x.mag).1)) x = up
  generalize (expFloors x.mag).1 = low at *
  generalize (expFloors x.mag).2 = high at *
  unfold pickBits
  rcases hle.eq_or_lt with rfl | hne
  · refine ⟨low, hlt, hlo, hhi, ?_⟩
    cases up
    · exact .inl (by simp)
    · exact .inr (by simp)
  · obtain rfl : high = low + 1 := le_antisymm hclose hne
    rw [if_neg hne.ne]
    rcases le_total ((unit : Nat) * Real.exp (-(x.mag / (unit : Nat)))) (bitsMag (low + 1)) with hmid | hmid
    · exact ⟨low, hle.trans_lt hlt, hlo, hmid, .inr rfl⟩
    · exact ⟨low + 1, hlt, hmid, hhi, .inl rfl⟩

end

/-- Settles O57: the special operands are branches of `fexp`, and its bits below zero are those of 1.0 at most. -/
theorem fexpExactPointsAndRange : Obligations.FexpExactPointsAndRange := by
  refine ⟨fexp_of_isZero (by decide), fexp_of_isZero (by decide), ?_, fun x h => ?_, fun x => fexp_range,
    fun x => fexp_of_underflow⟩
  · rfl
  · rw [fexp, if_pos h]
    exact isNaN_nanOfBits _

/-- Settles O58: the bits rise with the argument below zero, and at zero `fexp` is its greatest value 1.0. -/
theorem fexpIsNonDecreasing : Obligations.FexpIsNonDecreasing := by
  intro x y hx hy hxy hy0
  rcases hy0.lt_or_eq with hneg | hz
  · have hx0 := hxy.trans_lt hneg
    rw [fexp_of_neg hx hx0, fexp_of_neg hy hneg]
    exact ofSignBits_false_le (fexpBits_mono hy hx0 hneg hxy) ((fexpBits_le_one y).trans_lt (by decide))
  · obtain ⟨-, -, hle⟩ := fexp_range hx (hxy.trans hz.le)
    rwa [fexp_of_isZero (isZero_iff_toRat.2 hz), toRat_one]

/-- Settles O59: the bracket of the bits, divided by the unit. -/
theorem fexpBracketsTheExponential : Obligations.FexpBracketsTheExponential := by
  intro x hx h0
  have hu := unit_pos
  obtain ⟨n, hn, hlo, hhi, hbits⟩ := exists_exp_bracket x
  have hone : one.toNat < 2 ^ 63 := by decide
  refine ⟨n, hn, ?_⟩
  rw [toRat_ofSignBits_false (hn.trans hone), toRat_ofSignBits_false (Nat.lt_of_le_of_lt hn hone),
    toRat_of_sign (sign_eq_true_of_neg h0), fexp_of_neg hx h0, div_le_iff₀' hu, le_div_iff₀' hu]
  exact ⟨hlo, hhi, hbits.imp (congrArg _) (congrArg _)⟩

end Sys2Proof.Machine

/-!
PROOFS. The family of `41_channel_pack_unpack.md`: UNPACK and PACK and what they leave unchanged, the packed pixel as a
number, and the two round trips.
-/
namespace Sys2Proof.Machine

/-! ### The end of a command that writes registers only -/

/-- What a command that ends without error leaves unchanged when it writes the listed registers and nothing else. -/
def EndsKeeping (changed : List Reg) (s t : State) : Prop :=
  KeepsRegisters changed s t ∧ KeepsFlags [.busy] s t ∧ t.flag .busy = false ∧
    KeepsImg s t ∧ KeepsTmp s t ∧ KeepsKbuf s t ∧ KeepsHost s t ∧ t.kernelDiscarded = s.kernelDiscarded

/-- A command's end writes no register but `STATUS` (R92). -/
theorem contents_endCommand (s : State) {r : Reg} (hr : r ≠ .status) : contents (endCommand s) r = contents s r := by
  cases r with
  | status => exact absurd rfl hr
  | _ => rfl

/-- The result registers 11 to 17 (R22) hold no flag, no memory entry and nothing of the host. -/
theorem endsKeeping_endCommand {changed : List Reg} {s u : State} (hr : KeepsRegisters changed s u)
    (hu : u = { s with
      pix := u.pix, chR := u.chR, chG := u.chG, chB := u.chB, accR := u.accR, accG := u.accG, accB := u.accB }) :
    EndsKeeping changed s (endCommand u) := by
  refine ⟨fun r hst hch => (contents_endCommand u hst).trans (hr r hst hch), ?_⟩
  rw [hu]
  exact ⟨keepsFlags_setFlag _ .busy false, flag_endCommand _ .busy, .refl _ _, .refl _ _, .refl _ _,
    ⟨rfl, rfl, rfl, rfl⟩, rfl⟩

theorem keepsRegisters_pix (s : State) (p : Word) : KeepsRegisters [.pix] s { s with pix := p } := by
  intro q _ hq
  cases q with
  | pix => simp at hq
  | _ => rfl

theorem keepsRegisters_channels (s : State) (r g b : Word) :
    KeepsRegisters [.chR, .chG, .chB] s { s with chR := r, chG := g, chB := b } := by
  intro q _ hq
  cases q with
  | chR | chG | chB => simp at hq
  | _ => rfl

/-! ### The two commands -/

/-- Settles O16: the channel registers hold what `unpack` makes of `PIX`. -/
theorem unpackGivesTheThreeChannels : Obligations.UnpackGivesTheThreeChannels := fun s =>
  ⟨_, execUnpack_eq s, unpack_r_toNat _, unpack_g_toNat _, unpack_b_toNat _,
    endsKeeping_endCommand (keepsRegisters_channels s _ _ _) rfl⟩

/-- PACK ends with the packed word in `PIX`, drawn where `pack` is not defined (R133). -/
theorem exec_pack_ends (s : State) : ∃ t : State, exec .pack s = .next t ∧
    t.pix = packOrDraw (num s.draws) s.draws .pix ⟨s.accR, s.accG, s.accB⟩ ∧ EndsKeeping [.pix] s t :=
  ⟨_, execPack_eq s, rfl, endsKeeping_endCommand (keepsRegisters_pix s _) rfl⟩

/-- Settles O18: PACK has one outcome, whatever it packs. -/
theorem packNeverFails : Obligations.PackNeverFails := fun s =>
  let ⟨t, ht, _, hkeeps⟩ := exec_pack_ends s
  ⟨t, ht, hkeeps⟩

/-! ### `pack` where it is defined -/

/-- The conversion of a finite value whose truncation fits a word (R118). -/
theorem truncI32_of_towardZero {x : F64} {z : Int} (hx : x.isFinite = true) (hz : z = towardZero (toRat x))
    (hfits : -2 ^ 31 ≤ z ∧ z ≤ 2 ^ 31 - 1) : truncI32 x = some (BitVec.ofInt 32 z) := by
  subst hz
  exact (truncationIsTowardZero x _).2 ⟨hx, hfits.1, hfits.2, rfl⟩

/-- `of_int` of a byte converts back to the byte (R115, R118). -/
theorem truncI32_ofInt_byte {n : Nat} (h : n < 256) : truncI32 (F64.ofInt n) = some (BitVec.ofInt 32 n) := by
  have habs : |(n : Int)| < 2 ^ 53 := by rw [abs_of_nonneg] <;> omega
  obtain ⟨hfin, hval⟩ := ofInt_exact habs
  exact truncI32_of_towardZero hfin (by rw [hval, towardZero_intCast]) (by omega)

/-- Three converted channels are packed as the integers they stand for (R132). -/
theorem pack_of_truncI32 {c : Rgb F64} {r g b : Int} (d : Nat) (hr : truncI32 c.r = some (BitVec.ofInt 32 r))
    (hg : truncI32 c.g = some (BitVec.ofInt 32 g)) (hb : truncI32 c.b = some (BitVec.ofInt 32 b)) :
    pack (num d) c = some (packedInts r g b) :=
  (pack_eq_some _ _ _).2 ⟨_, _, _, hr, hg, hb, rfl⟩

/-- Settles O17: `pack` is defined, so `PIX` receives its word. -/
theorem packTruncatesShiftsAndOrs : Obligations.PackTruncatesShiftsAndOrs := by
  intro s r g b hr hg hb hrz hgz hbz hfits
  simp only [List.forall_mem_cons, List.not_mem_nil, false_implies, implies_true, and_true] at hfits
  obtain ⟨hrfits, hgfits, hbfits⟩ := hfits
  obtain ⟨t, ht, hpix, hkeeps⟩ := exec_pack_ends s
  have hpack := pack_of_truncI32 (c := ⟨s.accR, s.accG, s.accB⟩) s.draws (truncI32_of_towardZero hr hrz hrfits)
    (truncI32_of_towardZero hg hgz hgfits) (truncI32_of_towardZero hb hbz hbfits)
  exact ⟨t, ht, hpix.trans (packOrDraw_of_pack hpack _ _), hkeeps⟩

/-! ### The packed pixel as a number -/

/-- Bytes shifted into place do not overlap, so the OR of them is their sum (R24). -/
theorem toNat_packedInts {r g b : Nat} (hr : r < 256) (hg : g < 256) (hb : b < 256) :
    (packedInts r g b).toNat = r * 2 ^ 16 + g * 2 ^ 8 + b := by
  have hrg : r <<< 16 ||| g <<< 8 = (r * 2 ^ 8 + g) <<< 8 := by
    rw [← Nat.shiftLeft_add_eq_or_of_lt (by omega)]
    omega
  have hrgb : r <<< 16 ||| g <<< 8 ||| b = r * 2 ^ 16 + g * 2 ^ 8 + b := by
    rw [hrg, ← Nat.shiftLeft_add_eq_or_of_lt (by omega)]
    omega
  simp (disch := omega) only [packedInts, BitVec.ofInt_natCast, BitVec.toNat_or, BitVec.toNat_shiftLeft,
    BitVec.toNat_ofNat, Nat.mod_eq_of_lt]
  exact hrgb

/-- The mask of R135 (a) keeps a word's three channels and clears the byte above them. -/
theorem packedInts_channels (p : Word) :
    packedInts (channel p 16 : Nat) (channel p 8 : Nat) (channel p 0 : Nat) = p &&& 0x00FFFFFF#32 := by
  have hmask : (p &&& 0x00FFFFFF#32).toNat = p.toNat % 2 ^ 24 := by
    rw [BitVec.toNat_and, ← Nat.and_two_pow_sub_one_eq_mod]
    rfl
  apply BitVec.eq_of_toNat_eq
  rw [toNat_packedInts (channel_lt p 16) (channel_lt p 8) (channel_lt p 0), hmask]
  unfold channel
  omega

/-! ### The round trips -/

/-- Settles O19: the three channels are bytes, which convert back, and packed they are the masked word. -/
theorem packOfUnpackKeepsTheLow24Bits : Obligations.PackOfUnpackKeepsTheLow24Bits := by
  intro d p
  rw [← packedInts_channels]
  exact pack_of_truncI32 d (truncI32_ofInt_byte (channel_lt p 16)) (truncI32_ofInt_byte (channel_lt p 8))
    (truncI32_ofInt_byte (channel_lt p 0))

/-- Settles O20: the packed word is `r * 2^16 + g * 2^8 + b`, from which the channels are read off. -/
theorem unpackOfPackGivesTheTruncations : Obligations.UnpackOfPackGivesTheTruncations := by
  intro d c r g b hr hg hb hrz hgz hbz hr256 hg256 hb256
  have hp := toNat_packedInts hr256 hg256 hb256
  refine ⟨packedInts r g b, pack_of_truncI32 d (truncI32_of_towardZero hr hrz (by omega))
    (truncI32_of_towardZero hg hgz (by omega)) (truncI32_of_towardZero hb hbz (by omega)), ?_⟩
  unfold channel
  rw [hp]
  omega

end Sys2Proof.Machine

/-!
PROOFS. The family of `42_gaussian_kernel_gen.md`: the outcomes of KGEN under the spec's conditions, what an error and
what the kernel leave, and the symmetry of the kernel.
-/
namespace Sys2Proof.Machine

/-! ### The outcomes of KGEN -/

/-- The sigma test is the spec's condition (R117). -/
theorem validSigma_iff (s : State) : validSigma s.sigma = true ↔ SigmaOk s :=
  sigmaTestAcceptsPositiveFiniteValues s.sigma

/-- The checks of KGEN are the spec's conditions, in their order (R141, R198). -/
theorem exec_kgen_cases (s : State) :
    (¬ SigmaOk s ∧ exec .kgen s = .next (raiseError .invalidParameter (discardKernel s))) ∨
    (SigmaOk s ∧ ¬ CapacityOk s ∧ exec .kgen s = .next (raiseError .kernelCapacity (discardKernel s))) ∨
    (SigmaOk s ∧ CapacityOk s ∧ exec .kgen s = .next (kgenDone s)) := by
  rw [← validSigma_iff, ← exceedsKernelCapacity_eq_false, Bool.not_eq_true, Bool.not_eq_false]
  exact execKgen_cases s

theorem exec_kgen_of_ok {s : State} (hs : SigmaOk s) (hc : CapacityOk s) : exec .kgen s = .next (kgenDone s) := by
  obtain ⟨h, -⟩ | ⟨-, h, -⟩ | ⟨-, -, h⟩ := exec_kgen_cases s
  · exact absurd hs h
  · exact absurd hc h
  · exact h

/-! ### An error of KGEN -/

theorem KeepsFlags.mono {fewer more : List Flag} {s t : State} (h : KeepsFlags fewer s t) (hsub : fewer ⊆ more) :
    KeepsFlags more s t := ⟨fun f hf => h.1 f fun hmem => hf (hsub hmem), h.2⟩

/-- What an error leaves that discards the kernel and nothing else. -/
def FailsDiscardingKernel (e : CmdError) (s t : State) : Prop :=
  EndsWithError e t ∧ t.flag .kvalid = false ∧ KeepsData s t ∧ t.cmd = s.cmd ∧
    KeepsFlags [.busy, .err, .kvalid] s t ∧ KeepsHost s t ∧ t.kernelDiscarded = true

/-- Discarding the kernel writes no register but `STATUS` and no memory entry (R35, R196). -/
theorem keepsData_raiseError_discardKernel (e : CmdError) (s : State) :
    KeepsData s (raiseError e (discardKernel s)) := by
  refine ⟨fun r hst hr => ?_, .refl _ _, .refl _ _, .refl _ _⟩
  cases r with
  | status => exact absurd rfl hst
  | cmd | errcode => simp at hr
  | _ => rfl

theorem failsDiscardingKernel_raiseError (e : CmdError) (s : State) :
    FailsDiscardingKernel e s (raiseError e (discardKernel s)) := by
  have hkvalid : (raiseError e (discardKernel s)).flag .kvalid = false :=
    (flag_raiseError e _ .kvalid).trans (flag_discardKernel s .kvalid)
  have hdiscard : KeepsFlags [.kvalid] s (discardKernel s) := keepsFlags_setFlag s .kvalid false
  have hflags : KeepsFlags [.busy, .err, .kvalid] s (raiseError e (discardKernel s)) :=
    (hdiscard.mono (by decide)).trans ((keepsFlags_raiseError e _).mono (by decide))
  exact ⟨endsWithError_raiseError e _, hkvalid, keepsData_raiseError_discardKernel e s, rfl, hflags,
    ⟨rfl, rfl, rfl, rfl⟩, rfl⟩

/-- Settles O23: the outcome of the check that fails first, whose state is an error's after the discard. -/
theorem kgenErrors : Obligations.KgenErrors := by
  intro s
  obtain ⟨hs, h⟩ | ⟨hs, hc, h⟩ | ⟨hs, hc, -⟩ := exec_kgen_cases s
  · exact ⟨fun _ => ⟨_, h, failsDiscardingKernel_raiseError _ s⟩, fun hs' => absurd hs' hs⟩
  · exact ⟨fun hs' => absurd hs hs', fun _ _ => ⟨_, h, failsDiscardingKernel_raiseError _ s⟩⟩
  · exact ⟨fun hs' => absurd hs hs', fun _ hc' => absurd hc hc'⟩

/-! ### The kernel KGEN leaves -/

/-- Below the kernel length `KBUF` holds the weights (R144). -/
theorem read_kgenDone_kbuf_lt (s : State) {n : Nat} (h : n < 2 * halfLength (num s.draws) s.sigma - 1) :
    Memory.read (kgenDone s).kbuf n = some (kernelWeight (num s.draws) s.sigma n) := by
  rw [← generate_length] at h
  exact (Memory.read_writePrefix_lt _ _ h).trans (congrArg some (generate_getElem _ _ h))

/-- From the kernel length on `KBUF` holds what an observer saw of it before (R32, R141; log entry 26). -/
theorem read_kgenDone_kbuf_ge (s : State) {n : Nat} (h : 2 * halfLength (num s.draws) s.sigma - 1 ≤ n) :
    Memory.read (kgenDone s).kbuf n = if s.flag .kvalid then Memory.read s.kbuf n else none := by
  rw [← generate_length] at h
  exact Memory.read_writePrefix_observed_ge _ _ _ h

/-- The two entries at one distance from the centre are one weight (R145). -/
theorem kernelWeight_mirror (N : Numerics) (s : F64) {n : Nat} (h : n < 2 * halfLength N s - 1) :
    kernelWeight N s (2 * halfLength N s - 2 - n) = kernelWeight N s n := by
  unfold kernelWeight
  congr 1
  omega

/-- Settles O22: both entries lie inside the kernel, where they hold the weight at their distance from the centre. -/
theorem kernelIsSymmetricBitForBit : Obligations.KernelIsSymmetricBitForBit := by
  rintro s t hl n hs hc rfl ht hn
  cases (exec_kgen_of_ok hs hc).symm.trans ht
  rw [read_kgenDone_kbuf_lt s hn, read_kgenDone_kbuf_lt s (by omega), kernelWeight_mirror _ _ hn]

/-! ### What a successful KGEN changes -/

theorem keepsRegisters_kgenDone (s : State) : KeepsRegisters [.halflen, .klen] s (kgenDone s) := by
  intro r hst hr
  cases r with
  | status => exact absurd rfl hst
  | halflen | klen => simp at hr
  | _ => rfl

/-- Of `STATUS` KGEN writes `KVALID` and, at its end, `BUSY` (R92, R141). -/
theorem keepsFlags_kgenDone (s : State) : KeepsFlags [.busy, .kvalid] s (kgenDone s) := by
  have hvalidate : KeepsFlags [.kvalid] s (s.setFlag .kvalid true) := keepsFlags_setFlag s .kvalid true
  have hend : KeepsFlags [.busy] (s.setFlag .kvalid true) (kgenDone s) := keepsFlags_setFlag _ .busy false
  exact (hvalidate.mono (by decide)).trans (hend.mono (by decide))

theorem flag_kgenDone_kvalid (s : State) : (kgenDone s).flag .kvalid = true :=
  (flag_endCommand _ .kvalid).trans (flag_setFlag_same _ .kvalid true)

/-- Settles O21: KGEN ends with its kernel, of which each part has its law above. -/
theorem kgenLeavesTheKernel : Obligations.KgenLeavesTheKernel := by
  rintro s hl hs hc rfl
  refine ⟨_, exec_kgen_of_ok hs hc, lengthWord_toNat _ _, lengthWord_toNat _ _, flag_kgenDone_kvalid s,
    fun n => read_kgenDone_kbuf_lt s, fun hk n hn => ?_, fun hk n hn => ?_, rfl, .refl _ _, .refl _ _,
    keepsRegisters_kgenDone s, keepsFlags_kgenDone s, flag_endCommand _ .busy, rfl, rfl, rfl, rfl⟩
  · rw [read_kgenDone_kbuf_ge s hn, if_pos hk]
  · rw [read_kgenDone_kbuf_ge s hn, hk, if_neg Bool.false_ne_true]

end Sys2Proof.Machine

/-!
PROOFS. The family of `43_fir_convolver_1d.md`: the outcomes of the two FIR1D commands under the spec's conditions, the
window sums they leave, and what an error of theirs leaves.
-/
namespace Sys2Proof.Machine

/-! ### The failing guards as the spec's conditions -/

theorem geometryExceeds_eq_true (s : State) : geometryExceeds s = true ↔ ¬ GeometryOk s := by
  rw [← geometryExceeds_eq_false, Bool.not_eq_false]

theorem positionOutside_eq_true (s : State) : positionOutside s = true ↔ ¬ PositionOk s := by
  rw [← positionOutside_eq_false, Bool.not_eq_false]

theorem windowExceeds_eq_true (d : Nat) (s : State) : windowExceeds (num d) s = true ↔ ¬ WindowOk s := by
  rw [← windowExceeds_eq_false d, Bool.not_eq_false]

/-! ### The outcomes of FIR1D -/

/-- An operand of the FIR1D command `i` is out of order; only FIR1D.V needs `TVALID` (R155, R156, R195). -/
def FirOperandFails (i : Instr) (s : State) : Prop :=
  s.flag .kvalid = false ∨ i = .fir1dV ∧ s.flag .tvalid = false ∨ ¬ PositionOk s ∨ ¬ WindowOk s

/-- The spec's window sums at `ROW`, `COL`: for FIR1D.V along the column of `TMP`, for FIR1D.H along the row of `IMG`
(R155, R156). -/
def firSums (i : Instr) (s : State) : Rgb F64 :=
  if i = .fir1dV then
    columnSums (num s.draws) (tmpWord s) s.w.toNat s.h.toNat s.radius.toNat (kernelEntry s) s.row.toNat s.col.toNat
  else rowSums (num s.draws) (imgWord s) s.w.toNat s.radius.toNat (kernelEntry s) s.row.toNat s.col.toNat

/-- The two directions have the same outcomes, but for the operands they check and the sums they leave. -/
def FirEnds (i : Instr) (s : State) : Prop :=
  (¬ GeometryOk s ∧ exec i s = .next (raiseError .geometry s)) ∨
  (GeometryOk s ∧ FirOperandFails i s ∧ exec i s = .next (raiseError .operand s)) ∨
  (GeometryOk s ∧ ¬ FirOperandFails i s ∧ exec i s = .next (endCommand (setAccumulators (firSums i s) s)))

theorem not_firOperandFails_fir1dH (s : State) :
    ¬ FirOperandFails .fir1dH s ↔ s.flag .kvalid = true ∧ PositionOk s ∧ WindowOk s := by
  simp [FirOperandFails]

theorem not_firOperandFails_fir1dV (s : State) :
    ¬ FirOperandFails .fir1dV s ↔ s.flag .kvalid = true ∧ s.flag .tvalid = true ∧ PositionOk s ∧ WindowOk s := by
  simp [FirOperandFails]

/-- Inside the image the line has a sample, so the model's window is the spec's (R151 to R155). -/
theorem fir1dHDone_eq {s : State} (h : PositionOk s) :
    fir1dHDone s = endCommand (setAccumulators (firSums .fir1dH s) s) := by
  rw [fir1dHDone, rowWindow_eq_rowSums _ _ _ _ _ _ _ (Nat.zero_lt_of_lt h.2)]
  rfl

/-- Inside the image the column has a sample, so the model's window is the spec's (R151 to R154, R156). -/
theorem fir1dVDone_eq {s : State} (h : PositionOk s) :
    fir1dVDone s = endCommand (setAccumulators (firSums .fir1dV s) s) := by
  rw [fir1dVDone, columnWindow_eq_columnSums _ _ _ _ _ _ _ _ (Nat.zero_lt_of_lt h.1)]
  rfl

theorem firEnds_fir1dH (s : State) : FirEnds .fir1dH s := by
  have hcases := execFir1dH_cases s
  simp only [geometryExceeds_eq_true, geometryExceeds_eq_false, positionOutside_eq_true, positionOutside_eq_false,
    windowExceeds_eq_true, windowExceeds_eq_false] at hcases
  obtain ⟨hg, h⟩ | ⟨hg, hbad, h⟩ | ⟨hg, hk, hp, hw, h⟩ := hcases
  · exact .inl ⟨hg, h⟩
  · exact .inr (.inl ⟨hg, hbad.imp_right .inr, h⟩)
  · exact .inr (.inr ⟨hg, (not_firOperandFails_fir1dH s).2 ⟨hk, hp, hw⟩, fir1dHDone_eq hp ▸ h⟩)

theorem firEnds_fir1dV (s : State) : FirEnds .fir1dV s := by
  have hcases := execFir1dV_cases s
  simp only [geometryExceeds_eq_true, geometryExceeds_eq_false, positionOutside_eq_true, positionOutside_eq_false,
    windowExceeds_eq_true, windowExceeds_eq_false] at hcases
  obtain ⟨hg, h⟩ | ⟨hg, hbad, h⟩ | ⟨hg, hk, ht, hp, hw, h⟩ := hcases
  · exact .inl ⟨hg, h⟩
  · exact .inr (.inl ⟨hg, hbad.imp_right (.imp_left fun ht => ⟨rfl, ht⟩), h⟩)
  · exact .inr (.inr ⟨hg, (not_firOperandFails_fir1dV s).2 ⟨hk, ht, hp, hw⟩, fir1dVDone_eq hp ▸ h⟩)

/-! ### The sums FIR1D leaves -/

theorem keepsRegisters_setAccumulators (c : Rgb F64) (s : State) :
    KeepsRegisters [.accR, .accG, .accB] s (setAccumulators c s) := by
  intro q _ hq
  cases q with
  | accR | accG | accB => simp at hq
  | _ => rfl

/-- With its operands in order FIR1D ends with the spec's sums in the accumulators and changes nothing else (R155,
R156). -/
theorem FirEnds.leaves_sums {i : Instr} {s : State} (h : FirEnds i s) (hg : GeometryOk s)
    (hok : ¬ FirOperandFails i s) :
    ∃ t : State, exec i s = .next t ∧ (⟨t.accR, t.accG, t.accB⟩ : Rgb F64) = firSums i s ∧
      EndsKeeping [.accR, .accG, .accB] s t := by
  obtain ⟨hg', -⟩ | ⟨-, hbad, -⟩ | ⟨-, -, h⟩ := h
  · exact absurd hg hg'
  · exact absurd hbad hok
  · exact ⟨_, h, rfl, endsKeeping_endCommand (keepsRegisters_setAccumulators _ s) rfl⟩

/-- Settles O24: the premises are the operands FIR1D.H checks, and its sums are those of the row. -/
theorem fir1dHLeavesTheRowSums : Obligations.Fir1dHLeavesTheRowSums := fun s hg hk hp hw =>
  (firEnds_fir1dH s).leaves_sums hg ((not_firOperandFails_fir1dH s).2 ⟨hk, hp, hw⟩)

/-- Settles O25: the premises are the operands FIR1D.V checks, and its sums are those of the column. -/
theorem fir1dVLeavesTheColumnSums : Obligations.Fir1dVLeavesTheColumnSums := fun s hg hk ht hp hw =>
  (firEnds_fir1dV s).leaves_sums hg ((not_firOperandFails_fir1dV s).2 ⟨hk, ht, hp, hw⟩)

/-! ### An error of FIR1D -/

/-- What an error leaves that discards nothing. -/
def FailsKeeping (e : CmdError) (s t : State) : Prop :=
  EndsWithError e t ∧ KeepsData s t ∧ t.cmd = s.cmd ∧ KeepsFlags [.busy, .err] s t ∧ KeepsHost s t ∧
    t.kernelDiscarded = s.kernelDiscarded

/-- `raise` writes `ERRCODE` and two flags of `STATUS` (R196). -/
theorem failsKeeping_raiseError (e : CmdError) (s : State) : FailsKeeping e s (raiseError e s) :=
  ⟨endsWithError_raiseError e s, keepsData_cmd_status_errcode s s.cmd _ _ s.host s.draws, rfl,
    keepsFlags_raiseError e s, ⟨rfl, rfl, rfl, rfl⟩, rfl⟩

/-- FIR1D reports the check that fails first: the geometry, then an operand (R198). -/
theorem FirEnds.exec_eq_raiseError {i : Instr} {s : State} {e : CmdError} (h : FirEnds i s)
    (he : ¬ GeometryOk s ∧ e = .geometry ∨ GeometryOk s ∧ e = .operand ∧ FirOperandFails i s) :
    exec i s = .next (raiseError e s) := by
  obtain ⟨hg, rfl⟩ | ⟨hg, rfl, hbad⟩ := he
  · obtain ⟨-, h⟩ | ⟨hg', -⟩ | ⟨hg', -⟩ := h
    · exact h
    · exact absurd hg' hg
    · exact absurd hg' hg
  · obtain ⟨hg', -⟩ | ⟨-, -, h⟩ | ⟨-, hok, -⟩ := h
    · exact absurd hg hg'
    · exact h
    · exact absurd hbad hok

/-- Settles O26: either direction ends in the error of the check that fails first, which keeps the data state. -/
theorem fir1dErrors : Obligations.Fir1dErrors := by
  intro s i e hi he
  have hends : FirEnds i s := by
    obtain rfl | rfl := hi
    · exact firEnds_fir1dH s
    · exact firEnds_fir1dV s
  exact ⟨_, hends.exec_eq_raiseError he, failsKeeping_raiseError e s⟩

end Sys2Proof.Machine

/-!
PROOFS. The family of `44_separable_fir_blur_pass.md`: the words a pass leaves as packed window sums, the outcomes of
HPASS, VPASS and BLUR under the spec's conditions, and BLUR as KGEN followed by the two passes.
-/
namespace Sys2Proof.Machine

/-! ### What a window reads -/

/-- A window reads the samples of its line and the entries `0 .. 2 * radius` of the kernel (R151, R153). -/
theorem windowSum_congr (N : Numerics) {sample sample' : Nat → Word} {K K' : Nat → F64} (shift : Nat)
    {n radius : Nat} (p : Nat) (hn : 0 < n) (hs : ∀ q < n, sample q = sample' q)
    (hK : ∀ m ≤ 2 * radius, K m = K' m) :
    windowSum N sample shift n p radius K = windowSum N sample' shift n p radius K' := by
  refine List.foldl_ext _ _ _ fun sum m hm => ?_
  rw [hK m (Nat.lt_succ_iff.1 (List.mem_range.1 hm)), hs _ (by omega)]

theorem rowSums_congr_kernel (N : Numerics) (px : Nat → Word) {K K' : Nat → F64} {w radius : Nat} (i j : Nat)
    (hw : 0 < w) (hK : ∀ m ≤ 2 * radius, K m = K' m) :
    rowSums N px w radius K i j = rowSums N px w radius K' i j := by
  simp only [rowSums, windowSum_congr N _ j hw (fun _ _ => rfl) hK]

theorem columnSums_congr (N : Numerics) {px px' : Nat → Word} {K K' : Nat → F64} {w h radius j : Nat} (i : Nat)
    (hh : 0 < h) (hj : j < w) (hpx : ∀ n < w * h, px n = px' n) (hK : ∀ m ≤ 2 * radius, K m = K' m) :
    columnSums N px w h radius K i j = columnSums N px' w h radius K' i j := by
  simp only [columnSums, windowSum_congr N _ i hh (fun q hq => hpx _ (pixel_index_lt hq hj)) hK]

/-! ### The words a pass leaves -/

/-- The packed sums of every pixel, row-major, drawn as entries of `sp` where `pack` is not defined (R161, R163). -/
def packedPixels (d : Nat) (sp : Space) (sums : Nat → Nat → Rgb F64) (w h : Nat) : List Word :=
  (List.range (w * h)).map fun n => packOrDraw (num d) d (.packed sp n) (sums (n / w) (n % w))

@[simp] theorem packedPixels_length (d : Nat) (sp : Space) (sums : Nat → Nat → Rgb F64) (w h : Nat) :
    (packedPixels d sp sums w h).length = w * h := by simp [packedPixels]

theorem packedPixels_getElem? (d : Nat) (sp : Space) (sums : Nat → Nat → Rgb F64) {w h i j : Nat} (hi : i < h)
    (hj : j < w) :
    (packedPixels d sp sums w h)[i * w + j]? = some (packOrDraw (num d) d (.packed sp (i * w + j)) (sums i j)) := by
  simp [packedPixels, pixel_index_lt hi hj, row_of_index hj, column_of_index hj]

/-- Only the sums of the pixels inside the image count. -/
theorem packedPixels_congr {d w h : Nat} {sp : Space} {sums sums' : Nat → Nat → Rgb F64}
    (hsums : ∀ i < h, ∀ j < w, sums i j = sums' i j) : packedPixels d sp sums w h = packedPixels d sp sums' w h := by
  refine List.map_congr_left fun n hn => ?_
  have hlt : n < w * h := List.mem_range.1 hn
  have hw : 0 < w := Nat.pos_of_mul_pos_right (Nat.zero_lt_of_lt hlt)
  rw [hsums _ (Nat.div_lt_of_lt_mul hlt) _ (Nat.mod_lt n hw)]

/-- The horizontal pass packs the spec's row sums (R161). -/
theorem horizontalPass_eq (d : Nat) (px : Nat → Word) (w h radius : Nat) (K : Nat → F64) :
    horizontalPass (num d) d px w h radius K = packedPixels d .tmp (rowSums (num d) px w radius K) w h :=
  packedPixels_congr fun i _ j hj => rowWindow_eq_rowSums d px w radius K i j (Nat.zero_lt_of_lt hj)

/-- The vertical pass packs the spec's column sums (R163). -/
theorem verticalPass_eq (d : Nat) (px : Nat → Word) (w h radius : Nat) (K : Nat → F64) :
    verticalPass (num d) d px w h radius K = packedPixels d .img (columnSums (num d) px w h radius K) w h :=
  packedPixels_congr fun i hi j _ => columnWindow_eq_columnSums d px w h radius K i j (Nat.zero_lt_of_lt hi)

/-- The horizontal pass reads no kernel entry beyond its window. -/
theorem horizontalPass_congr_kernel (d : Nat) (px : Nat → Word) {K K' : Nat → F64} (w h : Nat) {radius : Nat}
    (hK : ∀ m ≤ 2 * radius, K m = K' m) :
    horizontalPass (num d) d px w h radius K = horizontalPass (num d) d px w h radius K' := by
  rw [horizontalPass_eq, horizontalPass_eq]
  exact packedPixels_congr fun i _ j hj => rowSums_congr_kernel _ px i j (Nat.zero_lt_of_lt hj) hK

/-- The vertical pass reads the words of the image and no kernel entry beyond its window. -/
theorem verticalPass_congr (d : Nat) {px px' : Nat → Word} {K K' : Nat → F64} {w h radius : Nat}
    (hpx : ∀ n < w * h, px n = px' n) (hK : ∀ m ≤ 2 * radius, K m = K' m) :
    verticalPass (num d) d px w h radius K = verticalPass (num d) d px' w h radius K' := by
  rw [verticalPass_eq, verticalPass_eq]
  exact packedPixels_congr fun i hi j hj => columnSums_congr _ i (Nat.zero_lt_of_lt hi) hj hpx hK

theorem blurWords_congr_kernel (d : Nat) (px : Nat → Word) {K K' : Nat → F64} (w h : Nat) {radius : Nat}
    (hK : ∀ m ≤ 2 * radius, K m = K' m) :
    blurWords (num d) d px w h radius K = blurWords (num d) d px w h radius K' := by
  rw [blurWords, blurWords, horizontalPass_congr_kernel d px w h hK]
  exact verticalPass_congr d (fun _ _ => rfl) hK

/-! ### Memories that hold the packed sums -/

/-- The memory holds, at the row-major position of every pixel, the packed sums wherever `pack` is defined and some
word elsewhere. -/
def HoldsPacked (d : Nat) (m : Memory 32) (sums : Nat → Nat → Rgb F64) (w h : Nat) : Prop :=
  ∀ i j : Nat, i < h → j < w → ∃ v : Word, Memory.read m (i * w + j) = some v ∧
    ∀ x : Word, pack (num d) (sums i j) = some x → v = x

theorem Memory.read_writePrefix_of_getElem? {n i : Nat} {vs : List (BitVec n)} {v : BitVec n} (m : Memory n)
    (h : vs[i]? = some v) : Memory.read (Memory.writePrefix m vs) i = some v := by
  obtain ⟨hi, rfl⟩ := List.getElem?_eq_some_iff.1 h
  exact Memory.read_writePrefix_lt m vs hi

theorem keepsFrom_writePrefix_of_length {n k : Nat} (m : Memory n) {vs : List (BitVec n)} (h : vs.length = k) :
    KeepsFrom k m (Memory.writePrefix m vs) := h ▸ .writePrefix m vs

theorem holdsPacked_writePrefix (d : Nat) (m : Memory 32) (sp : Space) (sums : Nat → Nat → Rgb F64) (w h : Nat) :
    HoldsPacked d (Memory.writePrefix m (packedPixels d sp sums w h)) sums w h := fun _ _ hi hj =>
  ⟨_, Memory.read_writePrefix_of_getElem? m (packedPixels_getElem? d sp sums hi hj),
    fun _ hx => packOrDraw_of_pack hx d _⟩

/-! ### The outcomes of HPASS and VPASS -/

/-- An operand of the pass `i` is out of order; only VPASS needs `TVALID` (R161, R163, R195). -/
def PassOperandFails (i : Instr) (s : State) : Prop :=
  s.flag .kvalid = false ∨ i = .vpass ∧ s.flag .tvalid = false ∨ ¬ WindowOk s

/-- The state an error of the pass `i` is raised in: HPASS has discarded the intermediate image (R161). -/
def passFailsFrom (i : Instr) (s : State) : State := if i = .hpass then discardTmp s else s

/-- The two passes have the same outcomes, but for the operands they check, what an error discards and the state
`done` of their success. -/
def PassEnds (i : Instr) (s done : State) : Prop :=
  (¬ GeometryOk s ∧ exec i s = .next (raiseError .geometry (passFailsFrom i s))) ∨
  (GeometryOk s ∧ PassOperandFails i s ∧ exec i s = .next (raiseError .operand (passFailsFrom i s))) ∨
  (GeometryOk s ∧ ¬ PassOperandFails i s ∧ exec i s = .next done)

theorem not_passOperandFails_hpass (s : State) :
    ¬ PassOperandFails .hpass s ↔ s.flag .kvalid = true ∧ WindowOk s := by
  simp [PassOperandFails]

theorem not_passOperandFails_vpass (s : State) :
    ¬ PassOperandFails .vpass s ↔ s.flag .kvalid = true ∧ s.flag .tvalid = true ∧ WindowOk s := by
  simp [PassOperandFails]

theorem passEnds_hpass (s : State) : PassEnds .hpass s (hpassDone s) := by
  have hcases := execHpass_cases s
  simp only [geometryExceeds_eq_true, geometryExceeds_eq_false, windowExceeds_eq_true, windowExceeds_eq_false] at hcases
  obtain ⟨hg, h⟩ | ⟨hg, hbad, h⟩ | ⟨hg, hk, hw, h⟩ := hcases
  · exact .inl ⟨hg, h⟩
  · exact .inr (.inl ⟨hg, hbad.imp_right .inr, h⟩)
  · exact .inr (.inr ⟨hg, (not_passOperandFails_hpass s).2 ⟨hk, hw⟩, h⟩)

theorem passEnds_vpass (s : State) : PassEnds .vpass s (vpassDone s) := by
  have hcases := execVpass_cases s
  simp only [geometryExceeds_eq_true, geometryExceeds_eq_false, windowExceeds_eq_true, windowExceeds_eq_false] at hcases
  obtain ⟨hg, h⟩ | ⟨hg, hbad, h⟩ | ⟨hg, hk, ht, hw, h⟩ := hcases
  · exact .inl ⟨hg, h⟩
  · exact .inr (.inl ⟨hg, hbad.imp_right (.imp_left fun ht => ⟨rfl, ht⟩), h⟩)
  · exact .inr (.inr ⟨hg, (not_passOperandFails_vpass s).2 ⟨hk, ht, hw⟩, h⟩)

theorem PassEnds.exec_eq_done {i : Instr} {s done : State} (h : PassEnds i s done) (hg : GeometryOk s)
    (hok : ¬ PassOperandFails i s) : exec i s = .next done := by
  obtain ⟨hg', -⟩ | ⟨-, hbad, -⟩ | ⟨-, -, h⟩ := h
  · exact absurd hg hg'
  · exact absurd hbad hok
  · exact h

/-- A pass reports the check that fails first: the geometry, then an operand (R198). -/
theorem PassEnds.exec_eq_raiseError {i : Instr} {s done : State} {e : CmdError} (h : PassEnds i s done)
    (he : ¬ GeometryOk s ∧ e = .geometry ∨ GeometryOk s ∧ e = .operand ∧ PassOperandFails i s) :
    exec i s = .next (raiseError e (passFailsFrom i s)) := by
  obtain ⟨hg, h⟩ | ⟨hg, hbad, h⟩ | ⟨hg, hok, -⟩ := h
  · obtain ⟨-, rfl⟩ | ⟨hg', -⟩ := he
    · exact h
    · exact absurd hg' hg
  · obtain ⟨hg', -⟩ | ⟨-, rfl, -⟩ := he
    · exact absurd hg hg'
    · exact h
  · obtain ⟨hg', -⟩ | ⟨-, -, hbad⟩ := he
    · exact absurd hg hg'
    · exact absurd hbad hok

theorem exec_hpass_of_ok {s : State} (hg : GeometryOk s) (hk : s.flag .kvalid = true) (hw : WindowOk s) :
    exec .hpass s = .next (hpassDone s) :=
  (passEnds_hpass s).exec_eq_done hg ((not_passOperandFails_hpass s).2 ⟨hk, hw⟩)

theorem exec_vpass_of_ok {s : State} (hg : GeometryOk s) (hk : s.flag .kvalid = true) (ht : s.flag .tvalid = true)
    (hw : WindowOk s) : exec .vpass s = .next (vpassDone s) :=
  (passEnds_vpass s).exec_eq_done hg ((not_passOperandFails_vpass s).2 ⟨hk, ht, hw⟩)

/-! ### What HPASS leaves -/

theorem holdsPacked_hpassDone (s : State) : HoldsPacked s.draws (hpassDone s).tmp
    (rowSums (num s.draws) (imgWord s) s.w.toNat s.radius.toNat (kernelEntry s)) s.w.toNat s.h.toNat := by
  have h := holdsPacked_writePrefix s.draws (Memory.observed (s.flag .tvalid) s.tmp) .tmp
    (rowSums (num s.draws) (imgWord s) s.w.toNat s.radius.toNat (kernelEntry s)) s.w.toNat s.h.toNat
  rwa [← horizontalPass_eq] at h

/-- From `W * H` on `TMP` holds what an observer saw of it before (R32, R161; log entry 26). -/
theorem read_hpassDone_tmp_ge (s : State) {n : Nat} (h : s.w.toNat * s.h.toNat ≤ n) :
    Memory.read (hpassDone s).tmp n = if s.flag .tvalid then Memory.read s.tmp n else none :=
  Memory.read_writePrefix_observed_ge _ _ _ ((horizontalPass_length ..).trans_le h)

/-- `STATUS` and the two image memories hold no other register. -/
theorem keepsRegisters_status_img_tmp (s : State) (status : Word) (img tmp : Memory 32) :
    KeepsRegisters [] s { s with status := status, img := img, tmp := tmp } := by
  intro r hst _
  cases r with
  | status => exact absurd rfl hst
  | _ => rfl

/-- Of `STATUS` HPASS writes `TVALID` and, at its end, `BUSY` (R92, R161). -/
theorem keepsFlags_hpassDone (s : State) : KeepsFlags [.busy, .tvalid] s (hpassDone s) := by
  have hvalidate : KeepsFlags [.tvalid] s (s.setFlag .tvalid true) := keepsFlags_setFlag s .tvalid true
  have hend : KeepsFlags [.busy] (s.setFlag .tvalid true) (hpassDone s) := keepsFlags_setFlag _ .busy false
  exact (hvalidate.mono (by decide)).trans (hend.mono (by decide))

theorem flag_hpassDone_tvalid (s : State) : (hpassDone s).flag .tvalid = true :=
  (flag_endCommand _ .tvalid).trans (flag_setFlag_same _ .tvalid true)

/-- Settles O27: HPASS ends with its intermediate image, of which each part has its law above. -/
theorem hpassWritesThePackedRowSums : Obligations.HpassWritesThePackedRowSums := by
  intro s hg hk hw
  refine ⟨_, exec_hpass_of_ok hg hk hw, flag_hpassDone_tvalid s, holdsPacked_hpassDone s, fun ht n hn => ?_,
    fun ht n hn => ?_, .refl _ _, .refl _ _, keepsRegisters_status_img_tmp s _ _ _, keepsFlags_hpassDone s,
    flag_endCommand _ .busy, ⟨rfl, rfl, rfl, rfl⟩, rfl⟩
  · rw [read_hpassDone_tmp_ge s hn, if_pos ht]
  · rw [read_hpassDone_tmp_ge s hn, ht, if_neg Bool.false_ne_true]

/-! ### What VPASS leaves -/

theorem holdsPacked_vpassDone (s : State) : HoldsPacked s.draws (vpassDone s).img
    (columnSums (num s.draws) (tmpWord s) s.w.toNat s.h.toNat s.radius.toNat (kernelEntry s)) s.w.toNat s.h.toNat := by
  have h := holdsPacked_writePrefix s.draws s.img .img
    (columnSums (num s.draws) (tmpWord s) s.w.toNat s.h.toNat s.radius.toNat (kernelEntry s)) s.w.toNat s.h.toNat
  rwa [← verticalPass_eq] at h

/-- Settles O28: VPASS ends with the packed column sums in `IMG` and writes nothing else but `BUSY`. -/
theorem vpassWritesThePackedColumnSums : Obligations.VpassWritesThePackedColumnSums := fun s hg hk ht hw =>
  ⟨_, exec_vpass_of_ok hg hk ht hw, holdsPacked_vpassDone s,
    keepsFrom_writePrefix_of_length s.img (verticalPass_length ..), .refl _ _, .refl _ _,
    keepsRegisters_status_img_tmp s _ _ _, keepsFlags_setFlag _ .busy false, flag_endCommand _ .busy,
    ⟨rfl, rfl, rfl, rfl⟩, rfl⟩

/-! ### An error after a discard -/

/-- An error writes no register but `STATUS` and `ERRCODE` and no memory entry, whatever it discarded (R196). -/
theorem Discards.keepsData_raiseError {s u : State} (hu : Discards s u) (e : CmdError) :
    KeepsData s (raiseError e u) := by
  rw [hu.eq_with]
  refine ⟨fun r hst hr => ?_, .refl _ _, .refl _ _, .refl _ _⟩
  cases r with
  | status => exact absurd rfl hst
  | cmd | errcode => simp at hr
  | _ => rfl

/-- An error changes `BUSY`, `ERR` and the flags of what it discarded (R196). -/
theorem KeepsFlags.raiseError {changed more : List Flag} {s u : State} (h : KeepsFlags changed s u) (e : CmdError)
    (hsub : changed ⊆ more) (hbusy : [.busy, .err] ⊆ more) : KeepsFlags more s (raiseError e u) :=
  (h.mono hsub).trans ((keepsFlags_raiseError e u).mono hbusy)

/-- What an error of the pass `i` leaves. -/
def PassFails (i : Instr) (e : CmdError) (s t : State) : Prop :=
  EndsWithError e t ∧ KeepsData s t ∧ t.cmd = s.cmd ∧ t.flag .tvalid = (if i = .hpass then false else s.flag .tvalid) ∧
    KeepsFlags [.busy, .err, .tvalid] s t ∧ KeepsHost s t ∧ t.kernelDiscarded = s.kernelDiscarded

/-- HPASS raises its error after a discard of the intermediate image, which writes `TVALID` (R161, R196). -/
theorem passFails_hpass (e : CmdError) (s : State) : PassFails .hpass e s (raiseError e (discardTmp s)) := by
  have htvalid : (raiseError e (discardTmp s)).flag .tvalid = false :=
    (flag_raiseError e _ .tvalid).trans (flag_discardTmp s .tvalid)
  have hdiscard : KeepsFlags [.tvalid] s (discardTmp s) := keepsFlags_setFlag s .tvalid false
  exact ⟨endsWithError_raiseError e _, (discards_tmp s).keepsData_raiseError e, rfl, htvalid,
    hdiscard.raiseError e (by decide) (by decide), ⟨rfl, rfl, rfl, rfl⟩, rfl⟩

/-- VPASS raises its error with nothing discarded (R163, R196). -/
theorem passFails_vpass (e : CmdError) (s : State) : PassFails .vpass e s (raiseError e s) := by
  obtain ⟨hends, hdata, hcmd, hflags, hhost, hdiscarded⟩ := failsKeeping_raiseError e s
  exact ⟨hends, hdata, hcmd, hflags.1 .tvalid (by decide), hflags.mono (by decide), hhost, hdiscarded⟩

/-- Settles O29: either pass ends in the error of the check that fails first, and HPASS discards `TMP` before it. -/
theorem passErrors : Obligations.PassErrors := by
  rintro s i e (rfl | rfl) he
  · exact ⟨_, (passEnds_hpass s).exec_eq_raiseError he, passFails_hpass e s⟩
  · exact ⟨_, (passEnds_vpass s).exec_eq_raiseError he, passFails_vpass e s⟩

/-! ### The outcomes of BLUR -/

/-- The checks of BLUR are the spec's conditions, in their order (R166, R198). -/
theorem exec_blur_cases (s : State) :
    (¬ SigmaOk s ∧ exec .blur s = .next (raiseError .invalidParameter (discardTmp (discardKernel s)))) ∨
    (SigmaOk s ∧ ¬ GeometryOk s ∧ exec .blur s = .next (raiseError .geometry (discardTmp (discardKernel s)))) ∨
    (SigmaOk s ∧ GeometryOk s ∧ ¬ CapacityOk s ∧
      exec .blur s = .next (raiseError .kernelCapacity (discardTmp (discardKernel s)))) ∨
    (SigmaOk s ∧ GeometryOk s ∧ CapacityOk s ∧ exec .blur s = .next (blurDone s)) := by
  rw [← validSigma_iff, ← exceedsKernelCapacity_eq_false, ← geometryExceeds_eq_false, Bool.not_eq_true,
    Bool.not_eq_false, Bool.not_eq_false]
  exact execBlur_cases s

theorem exec_blur_of_ok {s : State} (hs : SigmaOk s) (hg : GeometryOk s) (hc : CapacityOk s) :
    exec .blur s = .next (blurDone s) := by
  obtain ⟨h, -⟩ | ⟨-, h, -⟩ | ⟨-, -, h, -⟩ | ⟨-, -, -, h⟩ := exec_blur_cases s
  · exact absurd hs h
  · exact absurd hg h
  · exact absurd hc h
  · exact h

/-! ### An error of BLUR -/

/-- The two discards of BLUR write the two validity flags (R166). -/
theorem keepsFlags_discardBoth (s : State) : KeepsFlags [.kvalid, .tvalid] s (discardTmp (discardKernel s)) := by
  have hkernel : KeepsFlags [.kvalid] s (discardKernel s) := keepsFlags_setFlag s .kvalid false
  have htmp : KeepsFlags [.tvalid] (discardKernel s) (discardTmp (discardKernel s)) :=
    keepsFlags_setFlag _ .tvalid false
  exact (hkernel.mono (by decide)).trans (htmp.mono (by decide))

theorem flag_discardBoth_kvalid (s : State) : (discardTmp (discardKernel s)).flag .kvalid = false :=
  (flag_discardTmp _ .kvalid).trans (flag_discardKernel s .kvalid)

theorem flag_discardBoth_tvalid (s : State) : (discardTmp (discardKernel s)).flag .tvalid = false :=
  flag_discardTmp _ .tvalid

/-- What an error of BLUR leaves. -/
def BlurFails (e : CmdError) (s t : State) : Prop :=
  EndsWithError e t ∧ KeepsData s t ∧ t.cmd = s.cmd ∧ t.flag .kvalid = false ∧ t.flag .tvalid = false ∧
    KeepsFlags [.busy, .err, .kvalid, .tvalid] s t ∧ KeepsHost s t ∧ t.kernelDiscarded = true

theorem blurFails_raiseError (e : CmdError) (s : State) :
    BlurFails e s (raiseError e (discardTmp (discardKernel s))) :=
  ⟨endsWithError_raiseError e _, (discards_both s).keepsData_raiseError e, rfl,
    (flag_raiseError e _ .kvalid).trans (flag_discardBoth_kvalid s),
    (flag_raiseError e _ .tvalid).trans (flag_discardBoth_tvalid s),
    (keepsFlags_discardBoth s).raiseError e (by decide) (by decide), ⟨rfl, rfl, rfl, rfl⟩, rfl⟩

/-- BLUR reports the check that fails first: sigma, then the geometry, then the kernel capacity (R198). -/
theorem exec_blur_eq_raiseError {s : State} {e : CmdError}
    (he : ¬ SigmaOk s ∧ e = .invalidParameter ∨ SigmaOk s ∧ ¬ GeometryOk s ∧ e = .geometry ∨
      SigmaOk s ∧ GeometryOk s ∧ ¬ CapacityOk s ∧ e = .kernelCapacity) :
    exec .blur s = .next (raiseError e (discardTmp (discardKernel s))) := by
  have hcases := exec_blur_cases s
  obtain ⟨hs, rfl⟩ | ⟨hs, hg, rfl⟩ | ⟨hs, hg, hc, rfl⟩ := he
  · simpa [hs] using hcases
  · simpa [hs, hg] using hcases
  · simpa [hs, hg, hc] using hcases

/-- Settles O31: BLUR ends in the error of the check that fails first, raised after both discards. -/
theorem blurErrors : Obligations.BlurErrors := fun s e he =>
  ⟨_, exec_blur_eq_raiseError he, blurFails_raiseError e s⟩

/-! ### The image BLUR leaves -/

/-- The buffer between the two passes of BLUR: the packed row sums, word by word (R162, R166). -/
def rowBuffer (d : Nat) (px : Nat → Word) (w h radius : Nat) (K : Nat → F64) (n : Nat) : Word :=
  (horizontalPass (num d) d px w h radius K).getD n 0

theorem rowBuffer_of_pack {d : Nat} {px : Nat → Word} {w h radius : Nat} {K : Nat → F64} {i j : Nat} {x : Word}
    (hi : i < h) (hj : j < w) (hx : pack (num d) (rowSums (num d) px w radius K i j) = some x) :
    rowBuffer d px w h radius K (i * w + j) = x := by
  rw [rowBuffer, horizontalPass_eq, List.getD_eq_getElem?_getD, packedPixels_getElem? d _ _ hi hj, Option.getD_some,
    packOrDraw_of_pack hx]

/-- BLUR packs the column sums over the row buffer (R166). -/
theorem blurWords_eq (d : Nat) (px : Nat → Word) (w h radius : Nat) (K : Nat → F64) :
    blurWords (num d) d px w h radius K =
      packedPixels d .img (columnSums (num d) (rowBuffer d px w h radius K) w h radius K) w h :=
  verticalPass_eq d (rowBuffer d px w h radius K) w h radius K

/-- The generated kernel's entries are the weights (R144). -/
theorem generate_getD (N : Numerics) (s : F64) {n : Nat} (h : n < 2 * halfLength N s - 1) :
    (generate N s).getD n 0 = kernelWeight N s n := by
  rw [← generate_length] at h
  rw [List.getD_eq_getElem _ _ h, generate_getElem N s h]

/-- The image of BLUR, with any kernel that holds the weights of sigma within the window, when the window fits. -/
theorem blurImage_eq_blurWords {s : State} {K : Nat → F64}
    (hfits : 2 * blurRadius (num s.draws) s.sigma + 1 ≤ 2 * halfLength (num s.draws) s.sigma - 1)
    (hK : ∀ n ≤ 2 * blurRadius (num s.draws) s.sigma, K n = kernelWeight (num s.draws) s.sigma n) :
    blurImage s = blurWords (num s.draws) s.draws (imgWord s) s.w.toNat s.h.toNat
      (blurRadius (num s.draws) s.sigma) K :=
  blurWords_congr_kernel _ _ _ _ fun n hn => (generate_getD _ _ (by omega)).trans (hK n hn).symm

/-- The window of a blur fits its kernel (R125). -/
theorem blur_window_fits {s : State} (hs : SigmaOk s) (hc : CapacityOk s) :
    2 * blurRadius (num s.draws) s.sigma + 1 ≤ 2 * halfLength (num s.draws) s.sigma - 1 := by
  obtain ⟨-, -, hlength⟩ := (blurWindowFitsTheKernel s.draws s.sigma).2 ((validSigma_iff s).2 hs)
  have hle := (hlength hc.1).2
  omega

/-! ### What BLUR leaves -/

theorem keepsRegisters_blurDone (s : State) : KeepsRegisters [.halflen, .klen] s (blurDone s) := by
  intro r hst hr
  cases r with
  | status => exact absurd rfl hst
  | halflen | klen => simp at hr
  | _ => rfl

/-- Of `STATUS` BLUR writes the two validity flags and, at its end, `BUSY` (R92, R166). -/
theorem keepsFlags_blurDone (s : State) : KeepsFlags [.busy, .kvalid, .tvalid] s (blurDone s) := by
  have hend : KeepsFlags [.busy] (discardTmp (discardKernel s)) (blurDone s) := keepsFlags_setFlag _ .busy false
  exact ((keepsFlags_discardBoth s).mono (by decide)).trans (hend.mono (by decide))

theorem flag_blurDone_kvalid (s : State) : (blurDone s).flag .kvalid = false :=
  (flag_endCommand _ .kvalid).trans (flag_discardBoth_kvalid s)

theorem flag_blurDone_tvalid (s : State) : (blurDone s).flag .tvalid = false :=
  (flag_endCommand _ .tvalid).trans (flag_discardBoth_tvalid s)

/-- Settles O30: the buffer is the one between the passes, and the generated kernel holds the weights in the window. -/
theorem blurIsTheTwoPasses : Obligations.BlurIsTheTwoPasses := by
  intro s radius K hs hg hc hradius hK
  rw [← blurRadius_eq s.draws hs.1] at hradius
  subst hradius
  have himg := holdsPacked_writePrefix s.draws s.img .img (columnSums (num s.draws) (rowBuffer s.draws (imgWord s)
    s.w.toNat s.h.toNat (blurRadius (num s.draws) s.sigma) K) s.w.toNat s.h.toNat
    (blurRadius (num s.draws) s.sigma) K) s.w.toNat s.h.toNat
  rw [← blurWords_eq, ← blurImage_eq_blurWords (blur_window_fits hs hc) hK] at himg
  exact ⟨_, _, exec_blur_of_ok hs hg hc, fun _ _ hi hj _ hx => rowBuffer_of_pack hi hj hx, himg,
    keepsFrom_writePrefix_of_length s.img (blurImage_length s), fun _ => ⟨rfl, rfl⟩, flag_blurDone_kvalid s,
    flag_blurDone_tvalid s, keepsRegisters_blurDone s, keepsFlags_blurDone s, flag_endCommand _ .busy,
    ⟨rfl, rfl, rfl, rfl⟩, rfl⟩

/-! ### BLUR as KGEN and the two passes -/

/-- Inside the image VPASS reads from `TMP` what HPASS wrote there (R162). -/
theorem tmpWord_hpassDone (s : State) {n : Nat} (h : n < s.w.toNat * s.h.toNat) :
    tmpWord (hpassDone s) n =
      rowBuffer s.draws (imgWord s) s.w.toNat s.h.toNat s.radius.toNat (kernelEntry s) n := by
  have hlt := h.trans_eq (horizontalPass_length (num s.draws) s.draws (imgWord s) s.w.toNat s.h.toNat s.radius.toNat
    (kernelEntry s)).symm
  have hread : Memory.read (hpassDone s).tmp n = some _ := Memory.read_writePrefix_lt _ _ hlt
  rw [tmpWord, hread, Option.getD_some, rowBuffer, List.getD_eq_getElem _ _ hlt]

/-- HPASS and then VPASS leave the words of both passes (R166). -/
theorem vpassDone_hpassDone_img (s : State) : (vpassDone (hpassDone s)).img =
    Memory.writePrefix s.img (blurWords (num s.draws) s.draws (imgWord s) s.w.toNat s.h.toNat s.radius.toNat
      (kernelEntry s)) :=
  congrArg (Memory.writePrefix s.img) (verticalPass_congr s.draws (fun _ => tmpWord_hpassDone s) fun _ _ => rfl)

/-- The state between KGEN and HPASS: the host has written `RADIUS` (R168). -/
def kgenThenRadius (s : State) (radius : Nat) : State := { kgenDone s with radius := BitVec.ofNat 32 radius }

theorem kernelEntry_kgenThenRadius (s : State) (radius : Nat) {n : Nat}
    (h : n < 2 * halfLength (num s.draws) s.sigma - 1) :
    kernelEntry (kgenThenRadius s radius) n = kernelWeight (num s.draws) s.sigma n := by
  have hread : Memory.read (kgenThenRadius s radius).kbuf n = _ := read_kgenDone_kbuf_lt s h
  rw [kernelEntry, hread, Option.getD_some]

/-- The kernel and the radius are in order for both passes when the lengths fit their registers. -/
theorem windowOk_kgenThenRadius {s : State} {radius : Nat}
    (hlen : 2 * halfLength (num s.draws) s.sigma < 2 ^ 32)
    (hfits : 2 * radius + 1 ≤ 2 * halfLength (num s.draws) s.sigma - 1) : WindowOk (kgenThenRadius s radius) := by
  have hklen : (kgenThenRadius s radius).klen.toNat = 2 * halfLength (num s.draws) s.sigma - 1 :=
    lengthWord_toNat _ _ (by omega)
  have hradius : (kgenThenRadius s radius).radius.toNat ≤ radius :=
    (BitVec.toNat_ofNat radius 32).trans_le (Nat.mod_le _ _)
  unfold WindowOk
  omega

/-- From that state the two passes leave the image of BLUR (R168). -/
theorem vpassDone_hpassDone_kgenThenRadius_img {s : State}
    (hlen : 2 * halfLength (num s.draws) s.sigma < 2 ^ 32)
    (hfits : 2 * blurRadius (num s.draws) s.sigma + 1 ≤ 2 * halfLength (num s.draws) s.sigma - 1) :
    (vpassDone (hpassDone (kgenThenRadius s (blurRadius (num s.draws) s.sigma)))).img = (blurDone s).img := by
  have hradius : (kgenThenRadius s (blurRadius (num s.draws) s.sigma)).radius.toNat =
      blurRadius (num s.draws) s.sigma := (BitVec.toNat_ofNat _ 32).trans (Nat.mod_eq_of_lt (by omega))
  rw [vpassDone_hpassDone_img, hradius]
  exact congrArg (Memory.writePrefix s.img) (blurImage_eq_blurWords hfits fun n hn =>
    kernelEntry_kgenThenRadius s _ (by omega)).symm

/-- Settles O32: every command of the sequence passes its checks, and the passes read the kernel that BLUR
generates. -/
theorem blurEqualsKgenHpassVpass : Obligations.BlurEqualsKgenHpassVpass := by
  rintro s radius hl hs hg hc rfl rfl hlen hfits
  have hw := windowOk_kgenThenRadius hlen hfits
  have hk : (kgenThenRadius s (blurRadius (num s.draws) s.sigma)).flag .kvalid = true := flag_kgenDone_kvalid s
  have hkb := ((keepsFlags_hpassDone _).1 .kvalid (by decide)).trans hk
  exact ⟨kgenDone s, _, _, blurDone s, exec_kgen_of_ok hs hc, exec_hpass_of_ok hg hk hw,
    exec_vpass_of_ok hg hkb (flag_hpassDone_tvalid _) hw, exec_blur_of_ok hs hg hc,
    fun n => congrArg (Memory.read · n) (vpassDone_hpassDone_kgenThenRadius_img hlen hfits).symm⟩

end Sys2Proof.Machine

/-!
PROOFS. The family of `45_sharpening_kernel_apply.md`: the outcomes of SHARPEN under the spec's condition, the word it
leaves at every pixel, and what it leaves unchanged.
-/
namespace Sys2Proof.Machine

/-! ### The outcomes of SHARPEN -/

/-- The only check of SHARPEN is the spec's geometry condition (R181, R193). -/
theorem exec_sharpen_cases (s : State) :
    (¬ GeometryOk s ∧ exec .sharpen s = .next (raiseError .geometry (discardTmp s))) ∨
    (GeometryOk s ∧ exec .sharpen s = .next (sharpenDone s)) := by
  rw [← geometryExceeds_eq_true, ← geometryExceeds_eq_false]
  exact execSharpen_cases s

theorem exec_sharpen_of_not_ok {s : State} (hg : ¬ GeometryOk s) :
    exec .sharpen s = .next (raiseError .geometry (discardTmp s)) := by
  obtain ⟨-, h⟩ | ⟨h, -⟩ := exec_sharpen_cases s
  · exact h
  · exact absurd h hg

theorem exec_sharpen_of_ok {s : State} (hg : GeometryOk s) : exec .sharpen s = .next (sharpenDone s) := by
  obtain ⟨h, -⟩ | ⟨-, h⟩ := exec_sharpen_cases s
  · exact absurd hg h
  · exact h

theorem eq_sharpenDone {s t : State} (hg : GeometryOk s) (h : exec .sharpen s = .next t) : t = sharpenDone s :=
  Host.Outcome.next.inj (h.symm.trans (exec_sharpen_of_ok hg))

/-- Settles O37: SHARPEN raises its error as HPASS does, after a discard of the intermediate image. -/
theorem sharpenGeometryError : Obligations.SharpenGeometryError := fun s hg =>
  ⟨_, exec_sharpen_of_not_ok hg, passFails_hpass .geometry s⟩

/-! ### The sums of the fixed kernel -/

theorem interior_iff (w h i j : Nat) : interior w h i j = true ↔ 1 ≤ i ∧ i + 2 ≤ h ∧ 1 ≤ j ∧ j + 2 ≤ w := by
  simp [interior, and_assoc]

/-- The sums handed to `pack` are the spec's sums of the three channels (R180, R183). -/
theorem sharpenSums_eq (N : Numerics) (px : Nat → Word) (w i j : Nat) :
    sharpenSums N px w i j = ⟨N.ofInt (sharpenChannel px 16 w i j), N.ofInt (sharpenChannel px 8 w i j),
      N.ofInt (sharpenChannel px 0 w i j)⟩ := by
  simp only [sharpenSums, sharpenSum, unpack_r_toNat, unpack_g_toNat, unpack_b_toNat, pixelIndex, sharpenChannel]

/-- Four neighbours of at most 255 and five times a centre of at most 255 bound the sum (R183). -/
theorem sharpenChannel_bounds (px : Nat → Word) (shift w i j : Nat) :
    -1020 ≤ sharpenChannel px shift w i j ∧ sharpenChannel px shift w i j ≤ 1275 := by
  have hc := channel_lt (px (i * w + j)) shift
  have ha := channel_lt (px ((i - 1) * w + j)) shift
  have hb := channel_lt (px ((i + 1) * w + j)) shift
  have hl := channel_lt (px (i * w + (j - 1))) shift
  have hr := channel_lt (px (i * w + (j + 1))) shift
  unfold sharpenChannel
  omega

/-- `of_int` of an integer that fits a word converts back to it (R115, R118). -/
theorem truncI32_ofInt {z : Int} (hfits : -2 ^ 31 ≤ z ∧ z ≤ 2 ^ 31 - 1) :
    truncI32 (F64.ofInt z) = some (BitVec.ofInt 32 z) := by
  obtain ⟨hfin, hval⟩ := ofInt_exact (z := z) (abs_lt.2 (by omega))
  exact truncI32_of_towardZero hfin (by rw [hval, towardZero_intCast]) hfits

theorem truncI32_ofInt_sharpenChannel (px : Nat → Word) (shift w i j : Nat) :
    truncI32 (F64.ofInt (sharpenChannel px shift w i j)) = some (BitVec.ofInt 32 (sharpenChannel px shift w i j)) := by
  obtain ⟨hlo, hhi⟩ := sharpenChannel_bounds px shift w i j
  exact truncI32_ofInt (by omega)

/-- The word SHARPEN writes to an interior pixel (R183). -/
def sharpenedPixel (px : Nat → Word) (w i j : Nat) : Word :=
  packedInts (sharpenChannel px 16 w i j) (sharpenChannel px 8 w i j) (sharpenChannel px 0 w i j)

theorem pack_sharpenSums (d : Nat) (px : Nat → Word) (w i j : Nat) :
    pack (num d) (sharpenSums (num d) px w i j) = some (sharpenedPixel px w i j) := by
  rw [sharpenSums_eq]
  exact pack_of_truncI32 d (truncI32_ofInt_sharpenChannel px 16 w i j) (truncI32_ofInt_sharpenChannel px 8 w i j)
    (truncI32_ofInt_sharpenChannel px 0 w i j)

/-- A channel whose neighbours sum to four times it is its own sum (R187). -/
theorem sharpenChannel_of_balanced {px : Nat → Word} {shift w i j : Nat}
    (h : channel (px ((i - 1) * w + j)) shift + channel (px ((i + 1) * w + j)) shift +
      channel (px (i * w + (j - 1))) shift + channel (px (i * w + (j + 1))) shift =
        4 * channel (px (i * w + j)) shift) :
    sharpenChannel px shift w i j = (channel (px (i * w + j)) shift : Nat) := by
  unfold sharpenChannel
  omega

/-! ### The image SHARPEN leaves -/

/-- Every word of the destination buffer is an interior pixel's packed sums or 0 (R181, R182). -/
theorem sharpenWords_getElem? (d : Nat) (px : Nat → Word) {w h n : Nat} (hn : n < w * h) :
    (sharpenWords (num d) d px w h)[n]? =
      some (if interior w h (n / w) (n % w) then sharpenedPixel px w (n / w) (n % w) else 0) := by
  simp [sharpenWords, hn, packOrDraw_of_pack (pack_sharpenSums d px w _ _)]

theorem read_sharpenDone_img {s : State} {n : Nat} (hn : n < s.w.toNat * s.h.toNat) :
    Memory.read (sharpenDone s).img n =
      some (if interior s.w.toNat s.h.toNat (n / s.w.toNat) (n % s.w.toNat) then
        sharpenedPixel (imgWord s) s.w.toNat (n / s.w.toNat) (n % s.w.toNat) else 0) :=
  Memory.read_writePrefix_of_getElem? s.img (sharpenWords_getElem? s.draws (imgWord s) hn)

/-- The same at the row-major position of a pixel (R62). -/
theorem read_sharpenDone_pixel {s : State} {i j : Nat} (hi : i < s.h.toNat) (hj : j < s.w.toNat) :
    Memory.read (sharpenDone s).img (i * s.w.toNat + j) =
      some (if interior s.w.toNat s.h.toNat i j then sharpenedPixel (imgWord s) s.w.toNat i j else 0) := by
  rw [read_sharpenDone_img (pixel_index_lt hi hj), row_of_index hj, column_of_index hj]

theorem read_sharpenDone_of_interior {s : State} {i j : Nat} (hi : 1 ≤ i) (hi' : i + 2 ≤ s.h.toNat) (hj : 1 ≤ j)
    (hj' : j + 2 ≤ s.w.toNat) :
    Memory.read (sharpenDone s).img (i * s.w.toNat + j) = some (sharpenedPixel (imgWord s) s.w.toNat i j) := by
  rw [read_sharpenDone_pixel (by omega) (by omega), if_pos ((interior_iff ..).2 ⟨hi, hi', hj, hj'⟩)]

theorem keepsFrom_sharpenDone_img (s : State) : KeepsFrom (s.w.toNat * s.h.toNat) s.img (sharpenDone s).img :=
  keepsFrom_writePrefix_of_length s.img (sharpenWords_length ..)

/-! ### The flags SHARPEN leaves -/

/-- Of `STATUS` SHARPEN writes `TVALID` and, at its end, `BUSY` (R92, R181). -/
theorem keepsFlags_sharpenDone (s : State) : KeepsFlags [.busy, .tvalid] s (sharpenDone s) := by
  have hdiscard : KeepsFlags [.tvalid] s (discardTmp s) := keepsFlags_setFlag s .tvalid false
  have hend : KeepsFlags [.busy] (discardTmp s) (sharpenDone s) := keepsFlags_setFlag _ .busy false
  exact (hdiscard.mono (by decide)).trans (hend.mono (by decide))

theorem flag_sharpenDone_tvalid (s : State) : (sharpenDone s).flag .tvalid = false :=
  (flag_endCommand _ .tvalid).trans (flag_discardTmp s .tvalid)

/-! ### The successful SHARPEN -/

/-- Settles O33: SHARPEN ends with its image, of which each part has its law above. -/
theorem sharpenWritesTheKernelSums : Obligations.SharpenWritesTheKernelSums := fun s hg =>
  ⟨_, exec_sharpen_of_ok hg, fun _ _ => read_sharpenDone_of_interior, keepsFrom_sharpenDone_img s, fun _ => rfl,
    .refl _ _, flag_sharpenDone_tvalid s, keepsRegisters_status_img_tmp s _ _ _, keepsFlags_sharpenDone s,
    flag_endCommand _ .busy, ⟨rfl, rfl, rfl, rfl⟩, rfl⟩

/-- Settles O34: a border pixel is not interior. -/
theorem sharpenBlacksTheBorder : Obligations.SharpenBlacksTheBorder := by
  intro s t i j hg ht hh hw hi hj hborder
  have hout : ¬ interior s.w.toNat s.h.toNat i j = true := by
    rw [interior_iff]
    omega
  rw [eq_sharpenDone hg ht, read_sharpenDone_pixel hi hj, if_neg hout]

/-- Settles O35: an image with fewer than three rows or columns has no interior pixel. -/
theorem sharpenBlacksASmallImage : Obligations.SharpenBlacksASmallImage := by
  intro s hg hsmall
  refine ⟨_, exec_sharpen_of_ok hg, (keepsFlags_sharpenDone s).1 .err (by decide), rfl, fun n hn => ?_,
    keepsFrom_sharpenDone_img s⟩
  have hout : ¬ interior s.w.toNat s.h.toNat (n / s.w.toNat) (n % s.w.toNat) = true := by
    rw [interior_iff]
    omega
  rw [read_sharpenDone_img hn, if_neg hout]

/-- Settles O36: every channel is its own sum, and the three packed are the masked word. -/
theorem sharpenKeepsBalancedPixels : Obligations.SharpenKeepsBalancedPixels := by
  intro s t i j hg ht hi hi' hj hj' hbalanced
  rw [eq_sharpenDone hg ht, read_sharpenDone_of_interior hi hi' hj hj', ← packedInts_channels, sharpenedPixel,
    sharpenChannel_of_balanced (hbalanced 16 (by decide)), sharpenChannel_of_balanced (hbalanced 8 (by decide)),
    sharpenChannel_of_balanced (hbalanced 0 (by decide))]

end Sys2Proof.Machine

/-!
PROOFS. The family of `60_exceptions.md`: what any command that ends with an error leaves unchanged, and that SHARPEN
neither reads nor writes `SIGMA` and the kernel.
-/
namespace Sys2Proof.Machine

/-! ### An error of any command -/

/-- A command raises its error after a discard, or it does not write `ERR` (R92, R196). -/
theorem CommandEnds.error_or_keeps_err {i : Instr} {s t : State} (h : CommandEnds s i t) :
    (∃ (e : CmdError) (u : State), Discards s u ∧ t = raiseError e u) ∨ t.flag .err = s.flag .err := by
  cases h with
  | error e u hu => exact .inl ⟨e, u, hu, rfl⟩
  | kgen => exact .inr ((keepsFlags_kgenDone s).1 .err (by decide))
  | hpass => exact .inr ((keepsFlags_hpassDone s).1 .err (by decide))
  | blur => exact .inr ((keepsFlags_blurDone s).1 .err (by decide))
  | sharpen => exact .inr ((keepsFlags_sharpenDone s).1 .err (by decide))
  | _ => exact .inr (flag_endCommand _ .err)

/-- A discard sets no flag (R196). -/
theorem Discards.flag_of_flag {s u : State} (hu : Discards s u) {f : Flag} (h : u.flag f = true) : s.flag f = true := by
  by_contra hs
  rw [Bool.not_eq_true] at hs
  have hclear : u.flag f = false := by
    obtain rfl | rfl | rfl | rfl := hu
    · exact hs
    · rw [flag_discardKernel, hs, ite_self]
    · rw [flag_discardTmp, hs, ite_self]
    · rw [flag_discardTmp, flag_discardKernel, hs, ite_self, ite_self]
  exact absurd (h.symm.trans hclear) (by decide)

/-- Settles O39: the command ended in a raised error, and what it discarded before is no part of the data state. -/
theorem errorsLeaveTheDataState : Obligations.ErrorsLeaveTheDataState := by
  intro i s t hs h ht
  have hends := commandEnds_of_exec h
  obtain ⟨hregs, hhost⟩ := hends.keeps_host
  obtain ⟨e, u, hu, rfl⟩ | hkept := hends.error_or_keeps_err
  · exact ⟨hu.keepsData_raiseError e, HostValue.w32.inj (hregs .cmd List.mem_cons_self),
      fun hk => hu.flag_of_flag ((flag_raiseError e u .kvalid).symm.trans hk),
      fun htv => hu.flag_of_flag ((flag_raiseError e u .tvalid).symm.trans htv), hhost⟩
  · exact absurd (ht.symm.trans (hkept.trans hs)) (by decide)

/-! ### SHARPEN beside the kernel -/

/-- `SIGMA` and all that describes the kernel: `KBUF`, its two lengths, `KVALID`, and the model's mark that the lengths
are discarded (R32; log entry 12). -/
structure KernelSide where
  sigma : F64
  kbuf : Memory 64
  halflen : Word
  klen : Word
  kvalid : Bool
  discarded : Bool

/-- The state with another `SIGMA` and kernel. -/
def State.withKernel (s : State) (K : KernelSide) : State :=
  { s.setFlag .kvalid K.kvalid with
    sigma := K.sigma, kbuf := K.kbuf, halflen := K.halflen, klen := K.klen, kernelDiscarded := K.discarded }

/-- A write of any flag but `KVALID` and the replacement of the kernel commute. -/
theorem setFlag_withKernel (s : State) (K : KernelSide) {f : Flag} (v : Bool) (hf : f ≠ .kvalid) :
    (s.withKernel K).setFlag f v = (s.setFlag f v).withKernel K :=
  congrArg (fun st => { s.withKernel K with status := st }) (setStatusFlag_comm s.status K.kvalid v hf.symm)

theorem endCommand_withKernel (s : State) (K : KernelSide) :
    endCommand (s.withKernel K) = (endCommand s).withKernel K := setFlag_withKernel s K false (by decide)

theorem discardTmp_withKernel (s : State) (K : KernelSide) :
    discardTmp (s.withKernel K) = (discardTmp s).withKernel K := setFlag_withKernel s K false (by decide)

theorem raiseError_withKernel (e : CmdError) (s : State) (K : KernelSide) :
    raiseError e (s.withKernel K) = (raiseError e s).withKernel K := by
  change (({ s with errcode := errorCode e }.withKernel K).setFlag .err true).setFlag .busy false = _
  rw [setFlag_withKernel _ K true (by decide), setFlag_withKernel _ K false (by decide)]
  rfl

/-- The sharpened image is computed from `IMG`, `W` and `H` alone (R181, R191). -/
theorem sharpenDone_withKernel (s : State) (K : KernelSide) :
    sharpenDone (s.withKernel K) = (sharpenDone s).withKernel K := by
  unfold sharpenDone
  rw [discardTmp_withKernel, ← endCommand_withKernel]
  rfl

/-- SHARPEN takes the same branch, for the geometry check reads `W` and `H` only, and carries the kernel over (R35,
R191). -/
theorem exec_sharpen_withKernel {s t : State} (K : KernelSide) (h : exec .sharpen s = .next t) :
    exec .sharpen (s.withKernel K) = .next (t.withKernel K) := by
  by_cases hg : GeometryOk s
  · rw [eq_sharpenDone hg h, ← sharpenDone_withKernel]
    exact exec_sharpen_of_ok hg
  · have ht : raiseError .geometry (discardTmp s) = t :=
      Host.Outcome.next.inj ((exec_sharpen_of_not_ok hg).symm.trans h)
    rw [← ht, ← raiseError_withKernel, ← discardTmp_withKernel]
    exact exec_sharpen_of_not_ok hg

/-- Settles O44: the two states differ in `SIGMA` and the kernel, which SHARPEN carries over. -/
theorem sharpenIgnoresSigmaAndKernel : Obligations.SharpenIgnoresSigmaAndKernel :=
  fun _ _ sigma kbuf hl kl k discarded h => exec_sharpen_withKernel ⟨sigma, kbuf, hl, kl, k, discarded⟩ h

end Sys2Proof.Machine

/-!
PROOFS. The family of `70_reset_and_hazards.md`: reset of any engine, the transactions a busy engine answers, that every
command ends, and that VPASS does not read `IMG`.
-/
namespace Sys2Proof.Machine

/-! ### Reset -/

/-- A reset has one outcome, on an idle and on a busy engine (R220, R221). -/
theorem step_reset {s : State} {rest : List HostOp} (h : s.host = .reset :: rest) :
    step s = .next (hostReset { s with host := rest, draws := s.draws + 1 }) := step_transact h

/-- After a reset every register holds zero, of its own width (R40). -/
theorem contents_hostReset (s : State) (r : Reg) :
    contents (hostReset s) r = if regIs64 (regNumber r) then .w64 0 else .w32 0 := by
  cases r <;> rfl

/-- After a reset no read of a register is masked or free: `STATUS` is zero and no kernel is discarded (R40; log entry
12). -/
theorem readRegister_hostReset (s : State) (r : Reg) : readRegister (hostReset s) r = contents (hostReset s) r := by
  by_cases hst : r = .status
  · subst hst
    exact congrArg HostValue.w32 (by decide : statusReads 0 = 0)
  · exact readRegister_eq_contents hst fun _ => rfl

/-- Settles O14: the state a reset leaves, register by register; its memories are empty. -/
theorem hostResetClearsEverything : Obligations.HostResetClearsEverything := fun _ _ hs =>
  ⟨_, step_reset hs, rfl, rfl, fun r => ⟨contents_hostReset _ r, readRegister_hostReset _ r⟩, rfl,
    fun _ => ⟨rfl, rfl, rfl⟩, flag_hostReset _⟩

/-! ### The busy engine -/

/-- Settles O5: the three exceptions have a next state on any engine, and `transact_busy` refuses the rest. -/
theorem busyEngineRefusesEverythingElse : Obligations.BusyEngineRefusesEverythingElse := by
  intro s op rest hs hbusy
  have hanswered {t : State} (ht : step s = .next t) : step s ≠ .refused .busyEngine :=
    fun h => nomatch ht.symm.trans h
  constructor
  · intro h
    refine ⟨?_, ?_, ?_⟩ <;> rintro rfl
    · obtain ⟨v, hread, -⟩ := statusReadReturnsTheFourFlags s rest hs
      exact hanswered hread h
    · exact hanswered (step_wait hs) h
    · exact hanswered (step_reset hs) h
  · rintro ⟨hread, hwait, hreset⟩
    exact (step_transact hs).trans (transact_busy hbusy hread hwait hreset)

/-! ### Every command ends -/

/-- Settles O38: each outcome of a command is its regular end or an error, and both clear `BUSY`. -/
theorem everyCommandEnds : Obligations.EveryCommandEnds := fun i s =>
  have ⟨t, hexec, hends⟩ := exec_ends i s
  ⟨t, hexec, hends.idle⟩

/-! ### VPASS and the image -/

/-- The written words of a memory do not depend on what it held before. -/
theorem Memory.read_writePrefix_lt_congr {n i : Nat} (m m' : Memory n) {vs : List (BitVec n)} (h : i < vs.length) :
    Memory.read (Memory.writePrefix m vs) i = Memory.read (Memory.writePrefix m' vs) i := by
  rw [Memory.read_writePrefix_lt m vs h, Memory.read_writePrefix_lt m' vs h]

/-- Below `W * H` VPASS leaves words that are computed from `TMP` and the kernel alone (R163, R231). -/
theorem read_vpassDone_with_img (s : State) (img : Memory 32) {n : Nat} (h : n < s.w.toNat * s.h.toNat) :
    Memory.read (vpassDone { s with img := img }).img n = Memory.read (vpassDone s).img n :=
  Memory.read_writePrefix_lt_congr img s.img (h.trans_eq (verticalPass_length ..).symm)

/-- Settles O45: no check of VPASS reads `IMG`, and neither do the words it writes. -/
theorem vpassDoesNotReadTheImage : Obligations.VpassDoesNotReadTheImage := fun s img hg hk ht hw =>
  ⟨_, _, exec_vpass_of_ok hg hk ht hw, exec_vpass_of_ok (s := { s with img := img }) hg hk ht hw,
    fun _ hn => read_vpassDone_with_img s img hn⟩

end Sys2Proof.Machine
